-- ==== Sys2Proof/Word.lean ====
section
/-! DEFINITION. The word types of the block (00_scope.md R13): u8, u16, u32 and the 64-bit host registers. -/

namespace Sys2Proof

/-- A byte (u8) of any of the memories. -/
abbrev Byte := BitVec 8

/-- A u16 or i16 field of the container. -/
abbrev Half := BitVec 16

/-- A u32 or i32 field of the container. -/
abbrev Word := BitVec 32

/-- A host register (10_state.md R38). -/
abbrev Reg := BitVec 64

/-- The input as a sequence of bits, the first bit of the stream first (00_scope.md R15). -/
abbrev Bits := List Bool

end Sys2Proof
end

