-- ==== Sys2Proof/Machine/Cause.lean ====
section
/-! DEFINITION. The failure causes of 60_exceptions.md R401, with the class and the anchor of each, and the reasons for
which a decoder finds no token. -/

namespace Sys2Proof.Machine

/-- The causes a load can fail with (R401). -/
inductive Cause where
  /-- 0x10. -/
  | fileTooShort
  /-- 0x11. -/
  | badFileMagic
  /-- 0x12. -/
  | frameTruncated
  /-- 0x13. -/
  | badFrameMagic
  /-- 0x14. -/
  | badChunkSize
  /-- 0x15. -/
  | frameSizeMismatch
  /-- 0x16. -/
  | chunkBodyShort
  /-- 0x17. -/
  | paletteRange
  /-- 0x18. -/
  | celOutOfCanvas
  /-- 0x19. -/
  | badFileSize
  /-- 0x1A. -/
  | sliceNoKeys
  /-- 0x1B. -/
  | badFrameSize
  /-- 0x20. -/
  | colorDepth
  /-- 0x21. -/
  | celType
  /-- 0x22. -/
  | negativeCelOffset
  /-- 0x23. -/
  | paletteName
  /-- 0x24. -/
  | sliceFlags
  /-- 0x30. -/
  | truncated
  /-- 0x31. -/
  | badBlockType
  /-- 0x32. -/
  | storedLenMismatch
  /-- 0x33. -/
  | outputOverflow
  /-- 0x34. -/
  | badCodeLengths
  /-- 0x35. -/
  | oversubscribed
  /-- 0x36. -/
  | badRepeat
  /-- 0x37. -/
  | badSymbol
  /-- 0x38. -/
  | badLengthSymbol
  /-- 0x39. -/
  | badDistanceSymbol
  /-- 0x3A. -/
  | distanceTooFar
  /-- 0x3B. -/
  | checksumMismatch
  /-- 0x3C. -/
  | shortOutput
  /-- 0x50. -/
  | atlasTooLarge
  /-- 0x51. -/
  | tileTooLarge
deriving DecidableEq, Repr

/-- The CAUSE code (R401). -/
def Cause.code : Cause → Nat
  | .fileTooShort => 0x10
  | .badFileMagic => 0x11
  | .frameTruncated => 0x12
  | .badFrameMagic => 0x13
  | .badChunkSize => 0x14
  | .frameSizeMismatch => 0x15
  | .chunkBodyShort => 0x16
  | .paletteRange => 0x17
  | .celOutOfCanvas => 0x18
  | .badFileSize => 0x19
  | .sliceNoKeys => 0x1A
  | .badFrameSize => 0x1B
  | .colorDepth => 0x20
  | .celType => 0x21
  | .negativeCelOffset => 0x22
  | .paletteName => 0x23
  | .sliceFlags => 0x24
  | .truncated => 0x30
  | .badBlockType => 0x31
  | .storedLenMismatch => 0x32
  | .outputOverflow => 0x33
  | .badCodeLengths => 0x34
  | .oversubscribed => 0x35
  | .badRepeat => 0x36
  | .badSymbol => 0x37
  | .badLengthSymbol => 0x38
  | .badDistanceSymbol => 0x39
  | .distanceTooFar => 0x3A
  | .checksumMismatch => 0x3B
  | .shortOutput => 0x3C
  | .atlasTooLarge => 0x50
  | .tileTooLarge => 0x51

/-- The classes of R400 that the block raises. -/
inductive ErrClass where
  /-- 1. -/
  | structural
  /-- 2. -/
  | unsupported
  /-- 3. -/
  | codec
  /-- 5. -/
  | resource
deriving DecidableEq, Repr

/-- The CLASS number (R400). 4, IOError, is never raised (R409). -/
def ErrClass.code : ErrClass → Nat
  | .structural => 1
  | .unsupported => 2
  | .codec => 3
  | .resource => 5

/-- The class of a cause (R401). -/
def Cause.cls : Cause → ErrClass
  | .fileTooShort | .badFileMagic | .frameTruncated | .badFrameMagic | .badChunkSize | .frameSizeMismatch
  | .chunkBodyShort | .paletteRange | .celOutOfCanvas | .badFileSize | .sliceNoKeys | .badFrameSize => .structural
  | .colorDepth | .celType | .negativeCelOffset | .paletteName | .sliceFlags => .unsupported
  | .truncated | .badBlockType | .storedLenMismatch | .outputOverflow | .badCodeLengths | .oversubscribed
  | .badRepeat | .badSymbol | .badLengthSymbol | .badDistanceSymbol | .distanceTooFar | .checksumMismatch
  | .shortOutput => .codec
  | .atlasTooLarge | .tileTooLarge => .resource

/-- The structure whose start ERR_OFFSET records (R403). -/
inductive Anchor where
  /-- The file header: address 0. -/
  | file
  /-- FRAME_START. -/
  | frame
  /-- CHUNK_START. -/
  | chunk
deriving DecidableEq, Repr

/-- The anchor of a cause, the last column of R401. -/
def Cause.anchor : Cause → Anchor
  | .fileTooShort | .badFileMagic | .badFileSize | .colorDepth | .atlasTooLarge => .file
  | .frameTruncated | .badFrameMagic | .frameSizeMismatch | .badFrameSize => .frame
  | .badChunkSize | .chunkBodyShort | .paletteRange | .celOutOfCanvas | .sliceNoKeys | .celType
  | .negativeCelOffset | .paletteName | .sliceFlags | .truncated | .badBlockType | .storedLenMismatch
  | .outputOverflow | .badCodeLengths | .oversubscribed | .badRepeat | .badSymbol | .badLengthSymbol
  | .badDistanceSymbol | .distanceTooFar | .checksumMismatch | .shortOutput | .tileTooLarge => .chunk

/-- Why a decoder finds no token. -/
inductive Reject where
  /-- The bytes or bits end inside the token. -/
  | short
  /-- 15 bits match no codeword (41_huffman.md R173). -/
  | badSymbol
  /-- No zlib header stands here (43_zlib_adler.md R302); nothing is consumed. -/
  | noHeader
  /-- A write of CTRL with bit 0 clear is no START (10_state.md R38). -/
  | noStart
deriving DecidableEq, Repr

end Sys2Proof.Machine
end

