-- ==== Sys2Proof/Machine/Flags.lean ====
section
/-! DEFINITION. The flags: fields of the host registers (10_state.md section 5), of the zlib header and of a palette entry,
and the Adler-32 sums. -/

namespace Sys2Proof.Machine

/-- CTRL.START of a written value (R38). -/
def ctrlStart (v : Reg) : Bool := v.getLsbD 0

/-- CTRL.FLIP (R38). -/
def ctrlFlip (v : Reg) : Bool := v.getLsbD 1

/-- CTRL as it reads after a write of FLIP: START self-clearing, reserved bits 0 (R38). -/
def ctrlWord (flip : Bool) : Reg := if flip then 2 else 0

/-- STATUS with the given BUSY, DONE and ERR (R39). -/
def statusWord (busy done err : Bool) : Reg :=
  BitVec.ofNat 64 (busy.toNat + 2 * done.toNat + 4 * err.toNat)

/-- STATUS.BUSY (R39). -/
def statusBusy (v : Reg) : Bool := v.getLsbD 0

/-- STATUS.DONE (R39). -/
def statusDone (v : Reg) : Bool := v.getLsbD 1

/-- STATUS.ERR (R39). -/
def statusErr (v : Reg) : Bool := v.getLsbD 2

/-- `zext_64(CAUSE) << 8 | CLASS` (60_exceptions.md R405). -/
def errInfoWord (c : Cause) : Reg := BitVec.ofNat 64 (c.code * 256 + c.cls.code)

/-- FDICT = FLG[5] (30_encoding.md R109). -/
def fdict (flg : Byte) : Bool := flg.getLsbD 5

/-- The "has name" flag, bit 0 of a palette entry's flags (30_encoding.md R105). -/
def hasName (flags : Half) : Bool := flags.getLsbD 0

/-- The modulus of Adler-32 (43_zlib_adler.md R309). -/
def adlerMod : Nat := 65521

/-- The new ADLER_A (43_zlib_adler.md R310). -/
def adlerStepA (lo : Nat) (b : Byte) : Nat := (lo + b.toNat) % adlerMod

/-- The new ADLER_B, from the old sums `lo`, `hi` and through the new ADLER_A (43_zlib_adler.md R310). -/
def adlerStepB (lo hi : Nat) (b : Byte) : Nat := (hi + adlerStepA lo b) % adlerMod

/-- The checksum `B × 65536 + A` (43_zlib_adler.md R307). -/
def adlerValue (lo hi : Nat) : Nat := hi * 65536 + lo

end Sys2Proof.Machine
end

