-- ==== Sys2Proof/Config.lean ====
section
/-! DEFINITION. What an implementation fixes: the fixed parameters of 00_scope.md R8, the open parameters of R9 and R10,
and the free values (contents the spec calls unspecified). -/

namespace Sys2Proof

/-- The parameters the spec leaves to the implementation. No step writes them; State carries them so that every claim
about a state is a claim for every choice of them (log 9). -/
structure Config where
  /-- `FILE_MAGIC`, 00_scope.md R9. -/
  fileMagic : Half
  /-- `ATLAS_CAPACITY` in bytes, 00_scope.md R10; `none` is unbounded. -/
  atlasCapacity : Option Nat
  /-- `TILE_CAPACITY` in bytes, 00_scope.md R10; `none` is unbounded. -/
  tileCapacity : Option Nat
deriving DecidableEq, Repr

/-- `FILE_MAGIC` = 0xA5E0 (R9). Unbounded capacities: DESIGN CHOICE, unsafe (log 9); 95_test_vectors.md takes the same. -/
def Config.default : Config := { fileMagic := 0xA5E0, atlasCapacity := none, tileCapacity := none }

/-- The content of byte `a` of IN that the host has not written since the `epoch`-th reset: unspecified, "a draw"
(70_reset_and_hazards.md R440). A free value (log 7). -/
opaque Config.inDraw : (epoch a : Nat) → Byte

/-- The content of byte `a` of TILE that the `epoch`-th stream has not written: unspecified (20_memory.md R71).
A free value (log 8). -/
opaque Config.tileDraw : (epoch a : Nat) → Byte

/-- `MAX_CODE_LEN` (R8). -/
def Config.maxCodeLen : Nat := 15

/-- `FAST_BITS` (R8), without effect on any result (41_huffman.md R176). -/
def Config.fastBits : Nat := 10

/-- `PEEK_BITS` (R8). -/
def Config.peekBits : Nat := 16

/-- `GETBITS_MAX` (R8): the widest field any rule reads. -/
def Config.getBitsMax : Nat := 16

/-- `ACC_BITS` (R8), of the accumulator the model omits (log 10). -/
def Config.accBits : Nat := 32

/-- `REFILL_BYTES` (R8), of the refill, which has no effect (40_bit_reader.md R152). -/
def Config.refillBytes : Nat := 4

/-- `MIN_MATCH` (R8). -/
def Config.minMatch : Nat := 3

/-- `MAX_MATCH` (R8). -/
def Config.maxMatch : Nat := 258

/-- `MIN_DIST` (R8). -/
def Config.minDist : Nat := 1

/-- `MAX_DIST` (R8). -/
def Config.maxDist : Nat := 32768

/-- `LITLEN_SYMS` (R8). -/
def Config.litLenSyms : Nat := 288

/-- `DIST_SYMS` (R8). -/
def Config.distSyms : Nat := 32

/-- `CL_SYMS` (R8). -/
def Config.clSyms : Nat := 19

/-- `HEADER_SIZE` (R8). -/
def Config.headerSize : Nat := 128

/-- `FRAME_HDR_SIZE` (R8). -/
def Config.frameHdrSize : Nat := 16

/-- `CHUNK_HDR_SIZE` (R8). -/
def Config.chunkHdrSize : Nat := 6

/-- `FRAME_MAGIC` (R8). -/
def Config.frameMagic : Half := 0xF1FA

/-- `PAL_CAPACITY` (R8). -/
def Config.palCapacity : Nat := 256

end Sys2Proof
end

