-- ==== Sys2Proof/Machine/Bits.lean ====
section
/-! DEFINITION. Bit and byte fields of the input (00_scope.md R15, 20_memory.md R78 to R80): reading and writing the
field at the head of a bit sequence. A byte-aligned little-endian field of `n` bytes is a field of `8n` bits (R79). -/

namespace Sys2Proof.Machine

/-- The value of a bit sequence, its first bit the least significant (R15). -/
def bitsValue : Bits → Nat
  | [] => 0
  | b :: bs => b.toNat + 2 * bitsValue bs

/-- The `n` low bits of `v`, least significant first. -/
def bitsOf : (n v : Nat) → Bits
  | 0, _ => []
  | n + 1, v => (v % 2 == 1) :: bitsOf n (v / 2)

/-- The `n` low bits of `v`, most significant first: how a codeword stands in the stream (30_encoding.md R114). -/
def codeBits (n v : Nat) : Bits := (bitsOf n v).reverse

/-- The field of the first `n` bits and the bits after it; `none` when fewer than `n` bits are left
(40_bit_reader.md R153). -/
def takeBits : Nat → Bits → Option (Nat × Bits)
  | 0, bs => some (0, bs)
  | _ + 1, [] => none
  | n + 1, b :: bs => (takeBits n bs).map fun r => (b.toNat + 2 * r.1, r.2)

/-- Reads a field of `n` bits and goes on with its value. -/
def field {α : Type} (n : Nat) (bs : Bits) (k : Nat → Bits → Except Reject α) : Except Reject α :=
  match takeBits n bs with
  | none => .error .short
  | some (v, rest) => k v rest

/-- Passes over `n` ignored bits. -/
def skip {α : Type} (n : Nat) (bs : Bits) (k : Bits → Except Reject α) : Except Reject α :=
  if bs.length < n then .error .short else k (bs.drop n)

/-- Reads `n` bytes, as a label (30_encoding.md R107, R108). -/
def takeBytes : Nat → Bits → Option (List Byte × Bits)
  | 0, bs => some ([], bs)
  | n + 1, bs =>
    match takeBits 8 bs with
    | none => none
    | some (v, rest) => (takeBytes n rest).map fun r => (BitVec.ofNat 8 v :: r.1, r.2)

/-- The bits of a sequence of bytes: bytes in order, bit 0 of each byte first (R15). -/
def bitsOfBytes : List Byte → Bits
  | [] => []
  | b :: bs => bitsOf 8 b.toNat ++ bitsOfBytes bs

/-- The bytes whose bits are given, the last one filled up with 0 bits (`ALIGN` of 30_encoding.md R126); the first
argument bounds the number of bytes. -/
def bytesOfBits : Nat → Bits → List Byte
  | 0, _ => []
  | _ + 1, [] => []
  | n + 1, b :: bs => BitVec.ofNat 8 (bitsValue ((b :: bs).take 8)) :: bytesOfBits n ((b :: bs).drop 8)

/-- `8 × ceil(n / 8)`, the alignment of 40_bit_reader.md R156. -/
def alignUp (n : Nat) : Nat := 8 * ((n + 7) / 8)

end Sys2Proof.Machine
end

