-- ==== Sys2Proof/Machine/Huffman.lean ====
section
/-! DEFINITION. The HuffmanTable micro-operations of 41_huffman.md: prepare, finalize, decode, the fast path, the fixed
tables, and the codeword of a symbol. -/

namespace Sys2Proof.Machine

/-- The register file of one table (10_state.md R45). `count`, `first` and `index` are indexed by the length l, 1 to 15;
place 0 is unused and 0. -/
structure Table where
  /-- `T.len[s]`. -/
  len : List Nat
  /-- `T.count[l]`. -/
  count : List Nat
  /-- `T.first[l]`. -/
  first : List Nat
  /-- `T.index[l]`. -/
  index : List Nat
  /-- `T.sorted`. -/
  sorted : List Nat
deriving DecidableEq, Repr

/-- A table nothing has written (10_state.md R50): DESIGN CHOICE, unsafe, empty (log 6). -/
def Table.empty : Table := { len := [], count := [], first := [], index := [], sorted := [] }

/-- `T.count[l]`. -/
def Table.countAt (T : Table) (l : Nat) : Nat := T.count.getD l 0

/-- `T.first[l]`. -/
def Table.firstAt (T : Table) (l : Nat) : Nat := T.first.getD l 0

/-- `T.index[l]`. -/
def Table.indexAt (T : Table) (l : Nat) : Nat := T.index.getD l 0

/-- `T.len[s]`. -/
def Table.lenAt (T : Table) (s : Nat) : Nat := T.len.getD s 0

/-- Running sums: `index[l+1] = index[l] + count[l]` (R170). -/
def runningIndex : Nat → List Nat → List Nat
  | _, [] => []
  | acc, c :: cs => acc :: runningIndex (acc + c) cs

/-- `first[l] = code`, then `code = 2 × (code + count[l])` (R171). -/
def runningCode : Nat → List Nat → List Nat
  | _, [] => []
  | code, c :: cs => code :: runningCode (2 * (code + c)) cs

/-- The symbols of length `l`, in increasing order. -/
def symbolsOfLength (lens : List Nat) (l : Nat) : List Nat :=
  (lens.zipIdx.filter fun p => p.1 == l).map Prod.snd

/-- `prepare` (R170). -/
def prepareTable (lengths : List Nat) (numRead numTotal : Nat) : Except Cause Table :=
  if numTotal < numRead then .error .badCodeLengths
  else
    let read := lengths.take numRead
    let len := read ++ List.replicate (numTotal - read.length) 0
    if len.any (16 ≤ ·) then .error .badCodeLengths
    else
      let count := 0 :: (List.range Config.maxCodeLen).map fun i => len.count (i + 1)
      .ok { len := len
            count := count
            first := List.replicate 16 0
            index := runningIndex 0 count
            sorted := (List.range Config.maxCodeLen).flatMap fun i => symbolsOfLength len (i + 1) }

/-- Whether a length's codeword space is exceeded (R172). -/
def Table.oversubscribed (T : Table) : Bool :=
  (List.range Config.maxCodeLen).any fun i =>
    decide (0 < T.countAt (i + 1)) && decide (2 ^ (i + 1) < T.firstAt (i + 1) + T.countAt (i + 1))

/-- `finalize` (R171, R172). -/
def finalizeTable (T : Table) : Except Cause Table :=
  let T' := { T with first := runningCode 0 T.count }
  if T'.oversubscribed then .error .oversubscribed else .ok T'

/-- `prepare` and then `finalize`. -/
def buildTable (lengths : List Nat) (numRead numTotal : Nat) : Except Cause Table :=
  match prepareTable lengths numRead numTotal with
  | .error c => .error c
  | .ok T => finalizeTable T

/-- The loop of `decode` (R173) at length `l` with the bits so far `c`; the first argument counts the lengths left. The
three ends of R174 in their order: a match, a missing bit, the 15th bit without a match. -/
def decodeFrom (T : Table) : (left l c : Nat) → Bits → Except Reject (Nat × Bits)
  | 0, _, _, _ => .error .badSymbol
  | _ + 1, _, _, [] => .error .short
  | left + 1, l, c, b :: bs =>
    let c' := 2 * c + b.toNat
    if 0 < T.countAt l ∧ T.firstAt l ≤ c' ∧ c' < T.firstAt l + T.countAt l then
      .ok (T.sorted.getD (T.indexAt l + (c' - T.firstAt l)) 0, bs)
    else decodeFrom T left (l + 1) c' bs

/-- `decode` (R173), the normative definition: the symbol and the bits after its codeword. -/
def decodeSymbol (T : Table) (bs : Bits) : Except Reject (Nat × Bits) :=
  decodeFrom T Config.maxCodeLen 1 0 bs

/-- The codeword of symbol `s` as a number: `first[l] + j` for the `j`-th symbol of its length (R171). -/
def Table.codeOf (T : Table) (s : Nat) : Nat :=
  T.firstAt (T.lenAt s) + (T.sorted.idxOf s - T.indexAt (T.lenAt s))

/-- The codeword of symbol `s` as it stands in the stream, most significant bit first (30_encoding.md R114). -/
def Table.codeword (T : Table) (s : Nat) : Bits := codeBits (T.lenAt s) (T.codeOf s)

/-- The fast-table entry at index `i` (R176): the symbol of length at most FAST_BITS whose reversed codeword is `i` modulo
`2^l`, with its length. -/
def fastEntry (T : Table) (fastBits i : Nat) : Option (Nat × Nat) :=
  (T.sorted.find? fun s =>
    decide (T.lenAt s ≤ fastBits) && i % 2 ^ T.lenAt s == bitsValue (T.codeword s)).map fun s => (s, T.lenAt s)

/-- `peekBits` (40_bit_reader.md R154): the next 16 bits, bits past the end read as 0. -/
def peekWord (bs : Bits) : Nat := bitsValue (bs.take Config.peekBits)

/-- The fast-path decode (R176): on a populated entry the codeword's bits are consumed, else the lengths above FAST_BITS
are searched bit by bit. -/
def fastDecode (T : Table) (fastBits : Nat) (bs : Bits) : Except Reject (Nat × Bits) :=
  match fastEntry T fastBits (peekWord bs % 2 ^ fastBits) with
  | some (s, l) => if bs.length < l then .error .short else .ok (s, bs.drop l)
  | none =>
    if bs.length < fastBits then .error .short
    else decodeFrom T (Config.maxCodeLen - fastBits) (fastBits + 1) (bitsValue (bs.take fastBits).reverse)
      (bs.drop fastBits)

/-- The fixed literal/length lengths (R180). -/
def fixedLitLengths : List Nat :=
  List.replicate 144 8 ++ List.replicate 112 9 ++ List.replicate 24 7 ++ List.replicate 8 8

/-- The fixed distance lengths (R181). -/
def fixedDistLengths : List Nat := List.replicate 32 5

/-- LITTAB of a fixed block (R180). -/
def buildFixedLit : Except Cause Table := buildTable fixedLitLengths Config.litLenSyms Config.litLenSyms

/-- DISTTAB of a fixed block (R181). -/
def buildFixedDist : Except Cause Table := buildTable fixedDistLengths Config.distSyms Config.distSyms

/-- A built table, or the empty one. -/
def tableOf : Except Cause Table → Table
  | .ok T => T
  | .error _ => Table.empty

/-- The fixed literal/length table as a value. -/
def fixedLitTable : Table := tableOf buildFixedLit

/-- The fixed distance table as a value. -/
def fixedDistTable : Table := tableOf buildFixedDist

end Sys2Proof.Machine
end

