-- ==== Sys2Proof/Syntax.lean ====
section
/-! DEFINITION. The tokens of the block (30_encoding.md R100), one constructor per row of spec/opcode_table.json, and
the places where a token is read. Operands are the fields the token's rule reads; fields the spec marks ignored are no
operands (log 15). -/

namespace Sys2Proof

/-- A token. -/
inductive Instr where
  /-- FILE_HDR (R102). -/
  | fileHdr (size : Word) (magic nframes width height depth : Half) (tkey : Byte)
  /-- FRAME_HDR (R103). -/
  | frameHdr (bytes : Word) (magic legacy duration : Half) (newCount : Word)
  /-- CHUNK_HDR (R104). -/
  | chunkHdr (size : Word) (type : Half)
  /-- CHUNK_PALETTE (R105), type 0x2019. -/
  | chunkPalette (count first last : Word)
  /-- CHUNK_CEL (R106), type 0x2005: the offsets, as their u16 bit patterns. -/
  | chunkCel (x y : Half)
  /-- CHUNK_TAGS (R107), type 0x2018. -/
  | chunkTags (n : Half)
  /-- CHUNK_SLICE (R108), type 0x2022. With nonzero flags the label is not read (44_container.md R375; log 16). -/
  | chunkSlice (nkeys flags : Word) (label : List Byte)
  /-- CHUNK_OTHER (R104, R124): any other type. -/
  | chunkOther (type : Half)
  /-- PAL_ENTRY (R105), flag bit 0 clear. -/
  | palEntry (flags : Half) (r g b a : Byte)
  /-- PAL_ENTRY_NAMED (R105), flag bit 0 set. -/
  | palEntryNamed (flags : Half)
  /-- CEL_COMPRESSED (R106), cel type 2: the tile size. -/
  | celCompressed (w h : Half)
  /-- CEL_TYPE_OTHER (R106), any other cel type. -/
  | celTypeOther (type : Half)
  /-- TAG_REC (R107). -/
  | tagRec (first last : Half) (label : List Byte)
  /-- SLICE_KEY (R108). -/
  | sliceKey (x y w h : Word)
  /-- ZLIB_HDR (R109). -/
  | zlibHdr (cmf flg : Byte)
  /-- ZLIB_DICTID (R110). -/
  | zlibDictid (id : Word)
  /-- ADLER32_TRAILER (R110): the value of its four big-endian bytes. -/
  | adler32Trailer (adler : Word)
  /-- BLK_HDR (R111). -/
  | blkHdr (bfinal : Bool) (btype : BitVec 2)
  /-- BLK_STORED, BTYPE 0 (R111). -/
  | blkStored
  /-- BLK_FIXED, BTYPE 1. -/
  | blkFixed
  /-- BLK_DYNAMIC, BTYPE 2. -/
  | blkDynamic
  /-- BLK_RESERVED, BTYPE 3. -/
  | blkReserved
  /-- STORED_HDR (R112). -/
  | storedHdr (len nlen : Half)
  /-- DYN_HDR (R113): the three raw fields. -/
  | dynHdr (hlit hdist : BitVec 5) (hclen : BitVec 4)
  /-- CL_LEN (R113). -/
  | clLen (len : BitVec 3)
  /-- CL_LIT_0 (R117). -/
  | clLit0
  /-- CL_LIT_1 (R117). -/
  | clLit1
  /-- CL_LIT_2 (R117). -/
  | clLit2
  /-- CL_LIT_3 (R117). -/
  | clLit3
  /-- CL_LIT_4 (R117). -/
  | clLit4
  /-- CL_LIT_5 (R117). -/
  | clLit5
  /-- CL_LIT_6 (R117). -/
  | clLit6
  /-- CL_LIT_7 (R117). -/
  | clLit7
  /-- CL_LIT_8 (R117). -/
  | clLit8
  /-- CL_LIT_9 (R117). -/
  | clLit9
  /-- CL_LIT_10 (R117). -/
  | clLit10
  /-- CL_LIT_11 (R117). -/
  | clLit11
  /-- CL_LIT_12 (R117). -/
  | clLit12
  /-- CL_LIT_13 (R117). -/
  | clLit13
  /-- CL_LIT_14 (R117). -/
  | clLit14
  /-- CL_LIT_15 (R117). -/
  | clLit15
  /-- CL_REP16 (R117). -/
  | clRep16 (extra : BitVec 2)
  /-- CL_ZERO17 (R117). -/
  | clZero17 (extra : BitVec 3)
  /-- CL_ZERO18 (R117). -/
  | clZero18 (extra : BitVec 7)
  /-- LIT (R115). -/
  | lit (b : Byte)
  /-- EOB, symbol 256 (R115). -/
  | eob
  /-- LEN_257 (R118). -/
  | len257
  /-- LEN_258 (R118). -/
  | len258
  /-- LEN_259 (R118). -/
  | len259
  /-- LEN_260 (R118). -/
  | len260
  /-- LEN_261 (R118). -/
  | len261
  /-- LEN_262 (R118). -/
  | len262
  /-- LEN_263 (R118). -/
  | len263
  /-- LEN_264 (R118). -/
  | len264
  /-- LEN_265 (R118). -/
  | len265 (extra : BitVec 1)
  /-- LEN_266 (R118). -/
  | len266 (extra : BitVec 1)
  /-- LEN_267 (R118). -/
  | len267 (extra : BitVec 1)
  /-- LEN_268 (R118). -/
  | len268 (extra : BitVec 1)
  /-- LEN_269 (R118). -/
  | len269 (extra : BitVec 2)
  /-- LEN_270 (R118). -/
  | len270 (extra : BitVec 2)
  /-- LEN_271 (R118). -/
  | len271 (extra : BitVec 2)
  /-- LEN_272 (R118). -/
  | len272 (extra : BitVec 2)
  /-- LEN_273 (R118). -/
  | len273 (extra : BitVec 3)
  /-- LEN_274 (R118). -/
  | len274 (extra : BitVec 3)
  /-- LEN_275 (R118). -/
  | len275 (extra : BitVec 3)
  /-- LEN_276 (R118). -/
  | len276 (extra : BitVec 3)
  /-- LEN_277 (R118). -/
  | len277 (extra : BitVec 4)
  /-- LEN_278 (R118). -/
  | len278 (extra : BitVec 4)
  /-- LEN_279 (R118). -/
  | len279 (extra : BitVec 4)
  /-- LEN_280 (R118). -/
  | len280 (extra : BitVec 4)
  /-- LEN_281 (R118). -/
  | len281 (extra : BitVec 5)
  /-- LEN_282 (R118). -/
  | len282 (extra : BitVec 5)
  /-- LEN_283 (R118). -/
  | len283 (extra : BitVec 5)
  /-- LEN_284 (R118). -/
  | len284 (extra : BitVec 5)
  /-- LEN_285 (R118). -/
  | len285
  /-- LEN_INVALID (R115): symbol 286 or 287. -/
  | lenInvalid (sym : BitVec 9)
  /-- DIST_0 (R119). -/
  | dist0
  /-- DIST_1 (R119). -/
  | dist1
  /-- DIST_2 (R119). -/
  | dist2
  /-- DIST_3 (R119). -/
  | dist3
  /-- DIST_4 (R119). -/
  | dist4 (extra : BitVec 1)
  /-- DIST_5 (R119). -/
  | dist5 (extra : BitVec 1)
  /-- DIST_6 (R119). -/
  | dist6 (extra : BitVec 2)
  /-- DIST_7 (R119). -/
  | dist7 (extra : BitVec 2)
  /-- DIST_8 (R119). -/
  | dist8 (extra : BitVec 3)
  /-- DIST_9 (R119). -/
  | dist9 (extra : BitVec 3)
  /-- DIST_10 (R119). -/
  | dist10 (extra : BitVec 4)
  /-- DIST_11 (R119). -/
  | dist11 (extra : BitVec 4)
  /-- DIST_12 (R119). -/
  | dist12 (extra : BitVec 5)
  /-- DIST_13 (R119). -/
  | dist13 (extra : BitVec 5)
  /-- DIST_14 (R119). -/
  | dist14 (extra : BitVec 6)
  /-- DIST_15 (R119). -/
  | dist15 (extra : BitVec 6)
  /-- DIST_16 (R119). -/
  | dist16 (extra : BitVec 7)
  /-- DIST_17 (R119). -/
  | dist17 (extra : BitVec 7)
  /-- DIST_18 (R119). -/
  | dist18 (extra : BitVec 8)
  /-- DIST_19 (R119). -/
  | dist19 (extra : BitVec 8)
  /-- DIST_20 (R119). -/
  | dist20 (extra : BitVec 9)
  /-- DIST_21 (R119). -/
  | dist21 (extra : BitVec 9)
  /-- DIST_22 (R119). -/
  | dist22 (extra : BitVec 10)
  /-- DIST_23 (R119). -/
  | dist23 (extra : BitVec 10)
  /-- DIST_24 (R119). -/
  | dist24 (extra : BitVec 11)
  /-- DIST_25 (R119). -/
  | dist25 (extra : BitVec 11)
  /-- DIST_26 (R119). -/
  | dist26 (extra : BitVec 12)
  /-- DIST_27 (R119). -/
  | dist27 (extra : BitVec 12)
  /-- DIST_28 (R119). -/
  | dist28 (extra : BitVec 13)
  /-- DIST_29 (R119). -/
  | dist29 (extra : BitVec 13)
  /-- DIST_INVALID (R116): symbol 30 or 31. -/
  | distInvalid (sym : BitVec 5)
  /-- START (10_state.md R38): a write of CTRL with bit 0 set, and its bit 1. -/
  | start (flip : Bool)
deriving DecidableEq, Repr

/-- Where a token is read: what plays the opcode's part is the place (30_encoding.md R100, R125), since the same bits are
different tokens at different places. -/
inductive Site where
  /-- `IN` from address 0. -/
  | fileHdr
  /-- `IN` from CUR, a frame header. -/
  | frameHdr
  /-- `IN` from CUR, a chunk header. -/
  | chunkHdr
  /-- The chunk's type and body (44_container.md R348). -/
  | chunkType
  /-- A palette entry. -/
  | palEntry
  /-- The cel type field and what follows it. -/
  | celType
  /-- A tag record. -/
  | tagRec
  /-- A slice key. -/
  | sliceKey
  /-- The first two bytes of a zlib stream. -/
  | zlibHdr
  /-- The dictionary id. -/
  | dictId
  /-- The trailer, byte-aligned. -/
  | trailer
  /-- The 3 bits of a block header. -/
  | blkHdr
  /-- The BTYPE register, low bit first. -/
  | blkType
  /-- The stored header, byte-aligned. -/
  | storedHdr
  /-- The 14 bits of a dynamic header. -/
  | dynHdr
  /-- One code-length field. -/
  | clLen
  /-- A code-length symbol; `first` when no length precedes it (42_inflate.md R218). -/
  | clSym (first : Bool)
  /-- A literal/length symbol. -/
  | litSym
  /-- A distance symbol. -/
  | distSym
  /-- The value the host writes to CTRL, bit 0 first. -/
  | ctrl
deriving DecidableEq, Repr

end Sys2Proof
end

