-- ==== Sys2Proof/Machine/Operands.lean ====
section
/-! DEFINITION. How operands are assembled from fields (30_encoding.md R113 to R122), and the tests that tell one row of
the opcode table from another. -/

namespace Sys2Proof.Machine

/-- The ZLIB_HDR test of 43_zlib_adler.md R302: `(CMF·256 + FLG) mod 31 = 0` and CINFO = CMF[7:4] at most 7
(90_conflicts.md C1). -/
def zlibHeaderOk (cmf flg : Byte) : Bool :=
  (cmf.toNat * 256 + flg.toNat) % 31 == 0 && decide (cmf.toNat / 16 ≤ 7)

/-- The four chunk types of R104. -/
def knownChunkType (type : Half) : Bool :=
  type == 0x2019 || type == 0x2005 || type == 0x2018 || type == 0x2022

/-- `CL_ORDER` (R113). -/
def clOrder : List Nat := [16, 17, 18, 0, 8, 7, 9, 6, 10, 5, 11, 4, 12, 3, 13, 2, 14, 1, 15]

/-- The length codes of R118: symbol, extra bits, base. -/
def lengthCodes : List (Nat × Nat × Nat) :=
  [(257, 0, 3), (258, 0, 4), (259, 0, 5), (260, 0, 6), (261, 0, 7), (262, 0, 8),
   (263, 0, 9), (264, 0, 10), (265, 1, 11), (266, 1, 13), (267, 1, 15), (268, 1, 17),
   (269, 2, 19), (270, 2, 23), (271, 2, 27), (272, 2, 31), (273, 3, 35), (274, 3, 43),
   (275, 3, 51), (276, 3, 59), (277, 4, 67), (278, 4, 83), (279, 4, 99), (280, 4, 115),
   (281, 5, 131), (282, 5, 163), (283, 5, 195), (284, 5, 227), (285, 0, 258)]

/-- The distance codes of R119: symbol, extra bits, base. -/
def distanceCodes : List (Nat × Nat × Nat) :=
  [(0, 0, 1), (1, 0, 2), (2, 0, 3), (3, 0, 4), (4, 1, 5), (5, 1, 7),
   (6, 2, 9), (7, 2, 13), (8, 3, 17), (9, 3, 25), (10, 4, 33), (11, 4, 49),
   (12, 5, 65), (13, 5, 97), (14, 6, 129), (15, 6, 193), (16, 7, 257), (17, 7, 385),
   (18, 8, 513), (19, 8, 769), (20, 9, 1025), (21, 9, 1537), (22, 10, 2049), (23, 10, 3073),
   (24, 11, 4097), (25, 11, 6145), (26, 12, 8193), (27, 12, 12289), (28, 13, 16385), (29, 13, 24577)]

/-- `LEXTRA[sym]` (42_inflate.md R226), for sym 257 to 285. -/
def lengthExtra (sym : Nat) : Nat := (lengthCodes.getD (sym - 257) (0, 0, 0)).2.1

/-- `LBASE[sym]`. -/
def lengthBase (sym : Nat) : Nat := (lengthCodes.getD (sym - 257) (0, 0, 0)).2.2

/-- `DEXTRA[dsym]`, for dsym 0 to 29. -/
def distanceExtra (sym : Nat) : Nat := (distanceCodes.getD sym (0, 0, 0)).2.1

/-- `DBASE[dsym]`. -/
def distanceBase (sym : Nat) : Nat := (distanceCodes.getD sym (0, 0, 0)).2.2

/-- A match length: `base + extra` (R118, R121). -/
def lengthOperand (sym extra : Nat) : Nat := lengthBase sym + extra

/-- A match distance: `base + extra` (R119, R121). -/
def distanceOperand (sym extra : Nat) : Nat := distanceBase sym + extra

/-- HLIT, bias 257 (R113). -/
def hlitOperand (field : BitVec 5) : Nat := field.toNat + 257

/-- HDIST, bias 1 (R113). -/
def hdistOperand (field : BitVec 5) : Nat := field.toNat + 1

/-- HCLEN, bias 4 (R113). -/
def hclenOperand (field : BitVec 4) : Nat := field.toNat + 4

/-- The run length of CL_REP16, bias 3 (R117). -/
def rep16Count (extra : BitVec 2) : Nat := 3 + extra.toNat

/-- The run length of CL_ZERO17, bias 3 (R117). -/
def zero17Count (extra : BitVec 3) : Nat := 3 + extra.toNat

/-- The run length of CL_ZERO18, bias 11 (R117). -/
def zero18Count (extra : BitVec 7) : Nat := 11 + extra.toNat

/-- The chunk count: the new count when nonzero, else the legacy count (R122, 44_container.md R342). -/
def chunkCount (legacy : Half) (newCount : Word) : Nat :=
  if newCount = 0 then legacy.toNat else newCount.toNat

/-- `sext_16` of a cel offset (R122). -/
def celOffset (pattern : Half) : Int := pattern.toInt

/-- `sext_32` of a slice coordinate (R122). -/
def sliceCoord (pattern : Word) : Int := pattern.toInt

/-- The colour depths the block accepts, as bytes per pixel (44_container.md R336). -/
def bytesPerPixel (depth : Nat) : Option Nat :=
  if depth = 8 then some 1 else if depth = 32 then some 4 else none

/-- `Σ IN[a+k]·256^(3−k)` (20_memory.md R80). -/
def bigEndian (b0 b1 b2 b3 : Nat) : Nat := ((b0 * 256 + b1) * 256 + b2) * 256 + b3

end Sys2Proof.Machine
end

