-- ==== Sys2Proof/WellFormed.lean ====
section
/-! DEFINITION. Which tokens an input can hold: the conditions under which a row of the opcode table is that row
(30_encoding.md R102 to R119). Every operand not named here is well formed at every value of its width. -/

namespace Sys2Proof

open Machine

/-- A token that its row of the opcode table admits. -/
def Instr.wf : Instr → Bool
  | .chunkSlice _ flags label => if flags == 0 then decide (label.length < 65536) else label.isEmpty
  | .chunkOther type => !knownChunkType type
  | .palEntry flags _ _ _ _ => !flags.getLsbD 0
  | .palEntryNamed flags => flags.getLsbD 0
  | .celTypeOther type => type != 2
  | .tagRec _ _ label => decide (label.length < 65536)
  | .zlibHdr cmf flg => zlibHeaderOk cmf flg
  | .lenInvalid sym => sym == 286 || sym == 287
  | .distInvalid sym => sym == 30 || sym == 31
  | _ => true

end Sys2Proof
end

