-- ==== Sys2Proof/Decode.lean ====
section
/-! DEFINITION. The decoder, total on any bits, and after it the encoder, both from the layouts of 30_encoding.md; and the
reading of the opcode table's numbers as instruction words. -/

namespace Sys2Proof

open Machine

/-- What a decoder answers: a token and the bits after it, or why none is read. -/
abbrev Decoded := Except Reject (Instr × Bits)

/-- FILE_HDR, 128 bytes (R102). -/
def decodeFileHdr (bs : Bits) : Decoded :=
  field 32 bs fun size bs => field 16 bs fun magic bs => field 16 bs fun nframes bs => field 16 bs fun width bs =>
  field 16 bs fun height bs => field 16 bs fun depth bs => skip 112 bs fun bs => field 8 bs fun tkey bs =>
  skip 792 bs fun bs =>
    .ok (.fileHdr (.ofNat 32 size) (.ofNat 16 magic) (.ofNat 16 nframes) (.ofNat 16 width) (.ofNat 16 height)
      (.ofNat 16 depth) (.ofNat 8 tkey), bs)

/-- FRAME_HDR, 16 bytes (R103). -/
def decodeFrameHdr (bs : Bits) : Decoded :=
  field 32 bs fun bytes bs => field 16 bs fun magic bs => field 16 bs fun legacy bs => field 16 bs fun duration bs =>
  skip 16 bs fun bs => field 32 bs fun newCount bs =>
    .ok (.frameHdr (.ofNat 32 bytes) (.ofNat 16 magic) (.ofNat 16 legacy) (.ofNat 16 duration) (.ofNat 32 newCount), bs)

/-- CHUNK_HDR, 6 bytes (R104). -/
def decodeChunkHdr (bs : Bits) : Decoded :=
  field 32 bs fun size bs => field 16 bs fun type bs => .ok (.chunkHdr (.ofNat 32 size) (.ofNat 16 type), bs)

/-- The palette body's fields (R105; `need(s+6, 20)` of 44_container.md R350). -/
def decodePaletteBody (bs : Bits) : Decoded :=
  field 32 bs fun count bs => field 32 bs fun first bs => field 32 bs fun last bs => skip 64 bs fun bs =>
    .ok (.chunkPalette (.ofNat 32 count) (.ofNat 32 first) (.ofNat 32 last), bs)

/-- The cel body's offsets (R106; `need(s+6, 16)` of 44_container.md R360). -/
def decodeCelBody (bs : Bits) : Decoded :=
  skip 16 bs fun bs => field 16 bs fun x bs => field 16 bs fun y bs => skip 80 bs fun bs =>
    .ok (.chunkCel (.ofNat 16 x) (.ofNat 16 y), bs)

/-- The tags body's count (R107; `need(s+6, 10)` of 44_container.md R370). -/
def decodeTagsBody (bs : Bits) : Decoded :=
  field 16 bs fun n bs => skip 64 bs fun bs => .ok (.chunkTags (.ofNat 16 n), bs)

/-- The slice body up to its label (R108; `need(s+6, 14)`, the flags test, `need(s+20, len)` of 44_container.md R375:
with nonzero flags the label is not read, log 16). -/
def decodeSliceBody (bs : Bits) : Decoded :=
  field 32 bs fun nkeys bs => field 32 bs fun flags bs => skip 32 bs fun bs => field 16 bs fun len bs =>
    if flags = 0 then
      match takeBytes len bs with
      | none => .error .short
      | some (label, bs) => .ok (.chunkSlice (.ofNat 32 nkeys) 0 label, bs)
    else .ok (.chunkSlice (.ofNat 32 nkeys) (.ofNat 32 flags) [], bs)

/-- The dispatch table by chunk type (44_container.md R348). -/
def decodeChunkType (bs : Bits) : Decoded :=
  field 16 bs fun type bs =>
    if type = 0x2019 then decodePaletteBody bs
    else if type = 0x2005 then decodeCelBody bs
    else if type = 0x2018 then decodeTagsBody bs
    else if type = 0x2022 then decodeSliceBody bs
    else .ok (.chunkOther (.ofNat 16 type), bs)

/-- PAL_ENTRY and PAL_ENTRY_NAMED, 6 bytes, told apart by flag bit 0 (R105). -/
def decodePalEntry (bs : Bits) : Decoded :=
  field 16 bs fun flags bs => field 8 bs fun r bs => field 8 bs fun g bs => field 8 bs fun b bs => field 8 bs fun a bs =>
    if hasName (.ofNat 16 flags) then .ok (.palEntryNamed (.ofNat 16 flags), bs)
    else .ok (.palEntry (.ofNat 16 flags) (.ofNat 8 r) (.ofNat 8 g) (.ofNat 8 b) (.ofNat 8 a), bs)

/-- CEL_COMPRESSED and CEL_TYPE_OTHER, from the type field at chunk offset 13 (R106; the type is tested before
`need(s+22, 4)`, 44_container.md R362). -/
def decodeCelType (bs : Bits) : Decoded :=
  field 16 bs fun type bs =>
    if type = 2 then
      skip 56 bs fun bs => field 16 bs fun w bs => field 16 bs fun h bs =>
        .ok (.celCompressed (.ofNat 16 w) (.ofNat 16 h), bs)
    else .ok (.celTypeOther (.ofNat 16 type), bs)

/-- TAG_REC, 19 bytes and the label (R107). -/
def decodeTagRec (bs : Bits) : Decoded :=
  field 16 bs fun first bs => field 16 bs fun last bs => skip 104 bs fun bs => field 16 bs fun len bs =>
    match takeBytes len bs with
    | none => .error .short
    | some (label, bs) => .ok (.tagRec (.ofNat 16 first) (.ofNat 16 last) label, bs)

/-- SLICE_KEY, 20 bytes (R108). -/
def decodeSliceKey (bs : Bits) : Decoded :=
  skip 32 bs fun bs => field 32 bs fun x bs => field 32 bs fun y bs => field 32 bs fun w bs => field 32 bs fun h bs =>
    .ok (.sliceKey (.ofNat 32 x) (.ofNat 32 y) (.ofNat 32 w) (.ofNat 32 h), bs)

/-- ZLIB_HDR (R109): no header where fewer than 2 bytes stand or the test fails (43_zlib_adler.md R302). -/
def decodeZlibHdr (bs : Bits) : Decoded :=
  match takeBits 8 bs with
  | none => .error .noHeader
  | some (cmf, bs) =>
    match takeBits 8 bs with
    | none => .error .noHeader
    | some (flg, bs) =>
      if zlibHeaderOk (.ofNat 8 cmf) (.ofNat 8 flg) then .ok (.zlibHdr (.ofNat 8 cmf) (.ofNat 8 flg), bs)
      else .error .noHeader

/-- ZLIB_DICTID: `getBits(16)` twice (43_zlib_adler.md R303). -/
def decodeDictId (bs : Bits) : Decoded :=
  field 16 bs fun lo bs => field 16 bs fun hi bs => .ok (.zlibDictid (.ofNat 32 (lo + 65536 * hi)), bs)

/-- ADLER32_TRAILER: four `readByte`, the first the most significant (43_zlib_adler.md R305). -/
def decodeTrailer (bs : Bits) : Decoded :=
  field 8 bs fun b0 bs => field 8 bs fun b1 bs => field 8 bs fun b2 bs => field 8 bs fun b3 bs =>
    .ok (.adler32Trailer (.ofNat 32 (bigEndian b0 b1 b2 b3)), bs)

/-- BLK_HDR: `BFINAL = getBits(1)`, then `BTYPE = getBits(2)` (R111). -/
def decodeBlkHdr (bs : Bits) : Decoded :=
  field 1 bs fun f bs => field 2 bs fun t bs => .ok (.blkHdr (f == 1) (.ofNat 2 t), bs)

/-- The dispatch by BTYPE (42_inflate.md R200). -/
def decodeBlkType (bs : Bits) : Decoded :=
  field 2 bs fun t bs =>
    if t = 0 then .ok (.blkStored, bs) else if t = 1 then .ok (.blkFixed, bs)
    else if t = 2 then .ok (.blkDynamic, bs) else .ok (.blkReserved, bs)

/-- STORED_HDR, after the alignment (R112). -/
def decodeStoredHdr (bs : Bits) : Decoded :=
  field 16 bs fun len bs => field 16 bs fun nlen bs => .ok (.storedHdr (.ofNat 16 len) (.ofNat 16 nlen), bs)

/-- DYN_HDR, 14 bits (R113). -/
def decodeDynHdr (bs : Bits) : Decoded :=
  field 5 bs fun hlit bs => field 5 bs fun hdist bs => field 4 bs fun hclen bs =>
    .ok (.dynHdr (.ofNat 5 hlit) (.ofNat 5 hdist) (.ofNat 4 hclen), bs)

/-- CL_LEN, 3 bits (R113). -/
def decodeClLen (bs : Bits) : Decoded := field 3 bs fun len bs => .ok (.clLen (.ofNat 3 len), bs)

/-- A row of an alphabet: how many extra bits follow the codeword, and the token they make. -/
abbrev SymbolRow := Nat × (Nat → Instr)

/-- A symbol's extra bits and its token. -/
def decodeRow (row : SymbolRow) (bs : Bits) : Decoded := field row.1 bs fun extra bs => .ok (row.2 extra, bs)

/-- The code-length symbols 0 to 18 (R117). -/
def clRows : List SymbolRow :=
  [(0, fun _ => .clLit0), (0, fun _ => .clLit1), (0, fun _ => .clLit2), (0, fun _ => .clLit3),
   (0, fun _ => .clLit4), (0, fun _ => .clLit5), (0, fun _ => .clLit6), (0, fun _ => .clLit7),
   (0, fun _ => .clLit8), (0, fun _ => .clLit9), (0, fun _ => .clLit10), (0, fun _ => .clLit11),
   (0, fun _ => .clLit12), (0, fun _ => .clLit13), (0, fun _ => .clLit14), (0, fun _ => .clLit15),
   (2, fun e => .clRep16 (.ofNat 2 e)), (3, fun e => .clZero17 (.ofNat 3 e)),
   (7, fun e => .clZero18 (.ofNat 7 e))]

/-- The match length symbols 257 to 285 (R115, R118). -/
def lengthRows : List SymbolRow :=
  [(0, fun _ => .len257), (0, fun _ => .len258), (0, fun _ => .len259), (0, fun _ => .len260),
   (0, fun _ => .len261), (0, fun _ => .len262), (0, fun _ => .len263), (0, fun _ => .len264),
   (1, fun e => .len265 (.ofNat 1 e)), (1, fun e => .len266 (.ofNat 1 e)),
   (1, fun e => .len267 (.ofNat 1 e)), (1, fun e => .len268 (.ofNat 1 e)),
   (2, fun e => .len269 (.ofNat 2 e)), (2, fun e => .len270 (.ofNat 2 e)),
   (2, fun e => .len271 (.ofNat 2 e)), (2, fun e => .len272 (.ofNat 2 e)),
   (3, fun e => .len273 (.ofNat 3 e)), (3, fun e => .len274 (.ofNat 3 e)),
   (3, fun e => .len275 (.ofNat 3 e)), (3, fun e => .len276 (.ofNat 3 e)),
   (4, fun e => .len277 (.ofNat 4 e)), (4, fun e => .len278 (.ofNat 4 e)),
   (4, fun e => .len279 (.ofNat 4 e)), (4, fun e => .len280 (.ofNat 4 e)),
   (5, fun e => .len281 (.ofNat 5 e)), (5, fun e => .len282 (.ofNat 5 e)),
   (5, fun e => .len283 (.ofNat 5 e)), (5, fun e => .len284 (.ofNat 5 e)), (0, fun _ => .len285)]

/-- The match distance symbols 0 to 29 (R116, R119). -/
def distanceRows : List SymbolRow :=
  [(0, fun _ => .dist0), (0, fun _ => .dist1), (0, fun _ => .dist2), (0, fun _ => .dist3),
   (1, fun e => .dist4 (.ofNat 1 e)), (1, fun e => .dist5 (.ofNat 1 e)), (2, fun e => .dist6 (.ofNat 2 e)),
   (2, fun e => .dist7 (.ofNat 2 e)), (3, fun e => .dist8 (.ofNat 3 e)), (3, fun e => .dist9 (.ofNat 3 e)),
   (4, fun e => .dist10 (.ofNat 4 e)), (4, fun e => .dist11 (.ofNat 4 e)),
   (5, fun e => .dist12 (.ofNat 5 e)), (5, fun e => .dist13 (.ofNat 5 e)),
   (6, fun e => .dist14 (.ofNat 6 e)), (6, fun e => .dist15 (.ofNat 6 e)),
   (7, fun e => .dist16 (.ofNat 7 e)), (7, fun e => .dist17 (.ofNat 7 e)),
   (8, fun e => .dist18 (.ofNat 8 e)), (8, fun e => .dist19 (.ofNat 8 e)),
   (9, fun e => .dist20 (.ofNat 9 e)), (9, fun e => .dist21 (.ofNat 9 e)),
   (10, fun e => .dist22 (.ofNat 10 e)), (10, fun e => .dist23 (.ofNat 10 e)),
   (11, fun e => .dist24 (.ofNat 11 e)), (11, fun e => .dist25 (.ofNat 11 e)),
   (12, fun e => .dist26 (.ofNat 12 e)), (12, fun e => .dist27 (.ofNat 12 e)),
   (13, fun e => .dist28 (.ofNat 13 e)), (13, fun e => .dist29 (.ofNat 13 e))]

/-- A code-length symbol (R117). As the first length, symbol 16 is a BAD_REPEAT before its extra bits are read
(42_inflate.md R218): they are then left unread (log 16). A symbol above 18 is no code-length symbol: BAD_SYMBOL. -/
def decodeClSym (T : Table) (first : Bool) (bs : Bits) : Decoded :=
  match decodeSymbol T bs with
  | .error r => .error r
  | .ok (sym, bs) =>
    if first && sym == 16 then .ok (.clRep16 0, bs)
    else match clRows[sym]? with
      | some row => decodeRow row bs
      | none => .error .badSymbol

/-- A literal/length symbol (R115): 0 to 255 LIT, 256 EOB, 257 to 285 a match length, 286 and 287 invalid. -/
def decodeLitSym (T : Table) (bs : Bits) : Decoded :=
  match decodeSymbol T bs with
  | .error r => .error r
  | .ok (sym, bs) =>
    if sym < 256 then .ok (.lit (.ofNat 8 sym), bs)
    else if sym = 256 then .ok (.eob, bs)
    else match lengthRows[sym - 257]? with
      | some row => decodeRow row bs
      | none => .ok (.lenInvalid (.ofNat 9 sym), bs)

/-- A distance symbol (R116): 0 to 29 a match distance, 30 and 31 invalid. -/
def decodeDistSym (T : Table) (bs : Bits) : Decoded :=
  match decodeSymbol T bs with
  | .error r => .error r
  | .ok (sym, bs) =>
    match distanceRows[sym]? with
    | some row => decodeRow row bs
    | none => .ok (.distInvalid (.ofNat 5 sym), bs)

/-- START: a value written to CTRL with bit 0 set (10_state.md R38). -/
def decodeCtrl (bs : Bits) : Decoded :=
  field 1 bs fun start bs => field 1 bs fun flip bs => skip 62 bs fun bs =>
    if start = 1 then .ok (.start (flip == 1), bs) else .error .noStart

/-- The decoder: the token at a place, with the table of the place's alphabet. -/
def decode (site : Site) (T : Table) (bs : Bits) : Decoded :=
  match site with
  | .fileHdr => decodeFileHdr bs
  | .frameHdr => decodeFrameHdr bs
  | .chunkHdr => decodeChunkHdr bs
  | .chunkType => decodeChunkType bs
  | .palEntry => decodePalEntry bs
  | .celType => decodeCelType bs
  | .tagRec => decodeTagRec bs
  | .sliceKey => decodeSliceKey bs
  | .zlibHdr => decodeZlibHdr bs
  | .dictId => decodeDictId bs
  | .trailer => decodeTrailer bs
  | .blkHdr => decodeBlkHdr bs
  | .blkType => decodeBlkType bs
  | .storedHdr => decodeStoredHdr bs
  | .dynHdr => decodeDynHdr bs
  | .clLen => decodeClLen bs
  | .clSym first => decodeClSym T first bs
  | .litSym => decodeLitSym T bs
  | .distSym => decodeDistSym T bs
  | .ctrl => decodeCtrl bs

/-! ## The encoder -/

/-- The bits of a byte sequence's length (u16) and its bytes. -/
def encodeLabel (label : List Byte) : Bits := bitsOf 16 label.length ++ bitsOfBytes label

/-- A symbol's codeword and its extra bits. -/
def encodeSymbol (T : Table) (sym width extra : Nat) : Bits := T.codeword sym ++ bitsOf width extra

/-- The place where a token is read. -/
def siteOf : Instr → Site
  | .fileHdr _ _ _ _ _ _ _ => .fileHdr
  | .frameHdr _ _ _ _ _ => .frameHdr
  | .chunkHdr _ _ => .chunkHdr
  | .chunkPalette _ _ _ => .chunkType
  | .chunkCel _ _ => .chunkType
  | .chunkTags _ => .chunkType
  | .chunkSlice _ _ _ => .chunkType
  | .chunkOther _ => .chunkType
  | .palEntry _ _ _ _ _ => .palEntry
  | .palEntryNamed _ => .palEntry
  | .celCompressed _ _ => .celType
  | .celTypeOther _ => .celType
  | .tagRec _ _ _ => .tagRec
  | .sliceKey _ _ _ _ => .sliceKey
  | .zlibHdr _ _ => .zlibHdr
  | .zlibDictid _ => .dictId
  | .adler32Trailer _ => .trailer
  | .blkHdr _ _ => .blkHdr
  | .blkStored => .blkType
  | .blkFixed => .blkType
  | .blkDynamic => .blkType
  | .blkReserved => .blkType
  | .storedHdr _ _ => .storedHdr
  | .dynHdr _ _ _ => .dynHdr
  | .clLen _ => .clLen
  | .clLit0 => .clSym false
  | .clLit1 => .clSym false
  | .clLit2 => .clSym false
  | .clLit3 => .clSym false
  | .clLit4 => .clSym false
  | .clLit5 => .clSym false
  | .clLit6 => .clSym false
  | .clLit7 => .clSym false
  | .clLit8 => .clSym false
  | .clLit9 => .clSym false
  | .clLit10 => .clSym false
  | .clLit11 => .clSym false
  | .clLit12 => .clSym false
  | .clLit13 => .clSym false
  | .clLit14 => .clSym false
  | .clLit15 => .clSym false
  | .clRep16 _ => .clSym false
  | .clZero17 _ => .clSym false
  | .clZero18 _ => .clSym false
  | .lit _ => .litSym
  | .eob => .litSym
  | .len257 => .litSym
  | .len258 => .litSym
  | .len259 => .litSym
  | .len260 => .litSym
  | .len261 => .litSym
  | .len262 => .litSym
  | .len263 => .litSym
  | .len264 => .litSym
  | .len265 _ => .litSym
  | .len266 _ => .litSym
  | .len267 _ => .litSym
  | .len268 _ => .litSym
  | .len269 _ => .litSym
  | .len270 _ => .litSym
  | .len271 _ => .litSym
  | .len272 _ => .litSym
  | .len273 _ => .litSym
  | .len274 _ => .litSym
  | .len275 _ => .litSym
  | .len276 _ => .litSym
  | .len277 _ => .litSym
  | .len278 _ => .litSym
  | .len279 _ => .litSym
  | .len280 _ => .litSym
  | .len281 _ => .litSym
  | .len282 _ => .litSym
  | .len283 _ => .litSym
  | .len284 _ => .litSym
  | .len285 => .litSym
  | .lenInvalid _ => .litSym
  | .dist0 => .distSym
  | .dist1 => .distSym
  | .dist2 => .distSym
  | .dist3 => .distSym
  | .dist4 _ => .distSym
  | .dist5 _ => .distSym
  | .dist6 _ => .distSym
  | .dist7 _ => .distSym
  | .dist8 _ => .distSym
  | .dist9 _ => .distSym
  | .dist10 _ => .distSym
  | .dist11 _ => .distSym
  | .dist12 _ => .distSym
  | .dist13 _ => .distSym
  | .dist14 _ => .distSym
  | .dist15 _ => .distSym
  | .dist16 _ => .distSym
  | .dist17 _ => .distSym
  | .dist18 _ => .distSym
  | .dist19 _ => .distSym
  | .dist20 _ => .distSym
  | .dist21 _ => .distSym
  | .dist22 _ => .distSym
  | .dist23 _ => .distSym
  | .dist24 _ => .distSym
  | .dist25 _ => .distSym
  | .dist26 _ => .distSym
  | .dist27 _ => .distSym
  | .dist28 _ => .distSym
  | .dist29 _ => .distSym
  | .distInvalid _ => .distSym
  | .start _ => .ctrl

/-- The bits of a token at its place, ignored fields 0, with the table of the place's alphabet. -/
def encode (T : Table) : Instr → Bits
  | .fileHdr size magic nframes width height depth tkey =>
    bitsOf 32 size.toNat ++ (bitsOf 16 magic.toNat ++ (bitsOf 16 nframes.toNat ++ (bitsOf 16 width.toNat ++
      (bitsOf 16 height.toNat ++ (bitsOf 16 depth.toNat ++ (bitsOf 112 0 ++ (bitsOf 8 tkey.toNat ++ bitsOf 792 0)))))))
  | .frameHdr bytes magic legacy duration newCount =>
    bitsOf 32 bytes.toNat ++ (bitsOf 16 magic.toNat ++ (bitsOf 16 legacy.toNat ++ (bitsOf 16 duration.toNat ++
      (bitsOf 16 0 ++ bitsOf 32 newCount.toNat))))
  | .chunkHdr size type => bitsOf 32 size.toNat ++ bitsOf 16 type.toNat
  | .chunkPalette count first last =>
    bitsOf 16 0x2019 ++ (bitsOf 32 count.toNat ++ (bitsOf 32 first.toNat ++ (bitsOf 32 last.toNat ++ bitsOf 64 0)))
  | .chunkCel x y =>
    bitsOf 16 0x2005 ++ (bitsOf 16 0 ++ (bitsOf 16 x.toNat ++ (bitsOf 16 y.toNat ++ bitsOf 80 0)))
  | .chunkTags n => bitsOf 16 0x2018 ++ (bitsOf 16 n.toNat ++ bitsOf 64 0)
  | .chunkSlice nkeys flags label =>
    bitsOf 16 0x2022 ++ (bitsOf 32 nkeys.toNat ++ (bitsOf 32 flags.toNat ++ (bitsOf 32 0 ++ encodeLabel label)))
  | .chunkOther type => bitsOf 16 type.toNat
  | .palEntry flags r g b a =>
    bitsOf 16 flags.toNat ++ (bitsOf 8 r.toNat ++ (bitsOf 8 g.toNat ++ (bitsOf 8 b.toNat ++ bitsOf 8 a.toNat)))
  | .palEntryNamed flags => bitsOf 16 flags.toNat ++ bitsOf 32 0
  | .celCompressed w h => bitsOf 16 2 ++ (bitsOf 56 0 ++ (bitsOf 16 w.toNat ++ bitsOf 16 h.toNat))
  | .celTypeOther type => bitsOf 16 type.toNat
  | .tagRec first last label =>
    bitsOf 16 first.toNat ++ (bitsOf 16 last.toNat ++ (bitsOf 104 0 ++ encodeLabel label))
  | .sliceKey x y w h =>
    bitsOf 32 0 ++ (bitsOf 32 x.toNat ++ (bitsOf 32 y.toNat ++ (bitsOf 32 w.toNat ++ bitsOf 32 h.toNat)))
  | .zlibHdr cmf flg => bitsOf 8 cmf.toNat ++ bitsOf 8 flg.toNat
  | .zlibDictid id => bitsOf 16 (id.toNat % 65536) ++ bitsOf 16 (id.toNat / 65536)
  | .adler32Trailer adler =>
    bitsOf 8 (adler.toNat / 16777216) ++ (bitsOf 8 (adler.toNat / 65536 % 256) ++
      (bitsOf 8 (adler.toNat / 256 % 256) ++ bitsOf 8 (adler.toNat % 256)))
  | .blkHdr bfinal btype => bitsOf 1 bfinal.toNat ++ bitsOf 2 btype.toNat
  | .blkStored => bitsOf 2 0
  | .blkFixed => bitsOf 2 1
  | .blkDynamic => bitsOf 2 2
  | .blkReserved => bitsOf 2 3
  | .storedHdr len nlen => bitsOf 16 len.toNat ++ bitsOf 16 nlen.toNat
  | .dynHdr hlit hdist hclen => bitsOf 5 hlit.toNat ++ (bitsOf 5 hdist.toNat ++ bitsOf 4 hclen.toNat)
  | .clLen len => bitsOf 3 len.toNat
  | .clLit0 => encodeSymbol T 0 0 0
  | .clLit1 => encodeSymbol T 1 0 0
  | .clLit2 => encodeSymbol T 2 0 0
  | .clLit3 => encodeSymbol T 3 0 0
  | .clLit4 => encodeSymbol T 4 0 0
  | .clLit5 => encodeSymbol T 5 0 0
  | .clLit6 => encodeSymbol T 6 0 0
  | .clLit7 => encodeSymbol T 7 0 0
  | .clLit8 => encodeSymbol T 8 0 0
  | .clLit9 => encodeSymbol T 9 0 0
  | .clLit10 => encodeSymbol T 10 0 0
  | .clLit11 => encodeSymbol T 11 0 0
  | .clLit12 => encodeSymbol T 12 0 0
  | .clLit13 => encodeSymbol T 13 0 0
  | .clLit14 => encodeSymbol T 14 0 0
  | .clLit15 => encodeSymbol T 15 0 0
  | .clRep16 extra => encodeSymbol T 16 2 extra.toNat
  | .clZero17 extra => encodeSymbol T 17 3 extra.toNat
  | .clZero18 extra => encodeSymbol T 18 7 extra.toNat
  | .lit b => encodeSymbol T b.toNat 0 0
  | .eob => encodeSymbol T 256 0 0
  | .len257 => encodeSymbol T 257 0 0
  | .len258 => encodeSymbol T 258 0 0
  | .len259 => encodeSymbol T 259 0 0
  | .len260 => encodeSymbol T 260 0 0
  | .len261 => encodeSymbol T 261 0 0
  | .len262 => encodeSymbol T 262 0 0
  | .len263 => encodeSymbol T 263 0 0
  | .len264 => encodeSymbol T 264 0 0
  | .len265 extra => encodeSymbol T 265 1 extra.toNat
  | .len266 extra => encodeSymbol T 266 1 extra.toNat
  | .len267 extra => encodeSymbol T 267 1 extra.toNat
  | .len268 extra => encodeSymbol T 268 1 extra.toNat
  | .len269 extra => encodeSymbol T 269 2 extra.toNat
  | .len270 extra => encodeSymbol T 270 2 extra.toNat
  | .len271 extra => encodeSymbol T 271 2 extra.toNat
  | .len272 extra => encodeSymbol T 272 2 extra.toNat
  | .len273 extra => encodeSymbol T 273 3 extra.toNat
  | .len274 extra => encodeSymbol T 274 3 extra.toNat
  | .len275 extra => encodeSymbol T 275 3 extra.toNat
  | .len276 extra => encodeSymbol T 276 3 extra.toNat
  | .len277 extra => encodeSymbol T 277 4 extra.toNat
  | .len278 extra => encodeSymbol T 278 4 extra.toNat
  | .len279 extra => encodeSymbol T 279 4 extra.toNat
  | .len280 extra => encodeSymbol T 280 4 extra.toNat
  | .len281 extra => encodeSymbol T 281 5 extra.toNat
  | .len282 extra => encodeSymbol T 282 5 extra.toNat
  | .len283 extra => encodeSymbol T 283 5 extra.toNat
  | .len284 extra => encodeSymbol T 284 5 extra.toNat
  | .len285 => encodeSymbol T 285 0 0
  | .lenInvalid sym => encodeSymbol T sym.toNat 0 0
  | .dist0 => encodeSymbol T 0 0 0
  | .dist1 => encodeSymbol T 1 0 0
  | .dist2 => encodeSymbol T 2 0 0
  | .dist3 => encodeSymbol T 3 0 0
  | .dist4 extra => encodeSymbol T 4 1 extra.toNat
  | .dist5 extra => encodeSymbol T 5 1 extra.toNat
  | .dist6 extra => encodeSymbol T 6 2 extra.toNat
  | .dist7 extra => encodeSymbol T 7 2 extra.toNat
  | .dist8 extra => encodeSymbol T 8 3 extra.toNat
  | .dist9 extra => encodeSymbol T 9 3 extra.toNat
  | .dist10 extra => encodeSymbol T 10 4 extra.toNat
  | .dist11 extra => encodeSymbol T 11 4 extra.toNat
  | .dist12 extra => encodeSymbol T 12 5 extra.toNat
  | .dist13 extra => encodeSymbol T 13 5 extra.toNat
  | .dist14 extra => encodeSymbol T 14 6 extra.toNat
  | .dist15 extra => encodeSymbol T 15 6 extra.toNat
  | .dist16 extra => encodeSymbol T 16 7 extra.toNat
  | .dist17 extra => encodeSymbol T 17 7 extra.toNat
  | .dist18 extra => encodeSymbol T 18 8 extra.toNat
  | .dist19 extra => encodeSymbol T 19 8 extra.toNat
  | .dist20 extra => encodeSymbol T 20 9 extra.toNat
  | .dist21 extra => encodeSymbol T 21 9 extra.toNat
  | .dist22 extra => encodeSymbol T 22 10 extra.toNat
  | .dist23 extra => encodeSymbol T 23 10 extra.toNat
  | .dist24 extra => encodeSymbol T 24 11 extra.toNat
  | .dist25 extra => encodeSymbol T 25 11 extra.toNat
  | .dist26 extra => encodeSymbol T 26 12 extra.toNat
  | .dist27 extra => encodeSymbol T 27 12 extra.toNat
  | .dist28 extra => encodeSymbol T 28 13 extra.toNat
  | .dist29 extra => encodeSymbol T 29 13 extra.toNat
  | .distInvalid sym => encodeSymbol T sym.toNat 0 0
  | .start flip => bitsOf 1 1 ++ (bitsOf 1 flip.toNat ++ bitsOf 62 0)

/-! ## The opcode table's numbers

spec/opcode_table.json gives a row the number of its key field (a magic, a chunk or cel type, a block type, a symbol of
one of three alphabets, a bit of CTRL), and the same number stands for rows of several families. `tableWordSite` fixes
one family for each number (log 2). -/

/-- The place at which a table number is read. -/
def tableWordSite (nbits w : Nat) : Option Site :=
  if w = 0xA5E0 ∨ nbits = 1024 then some .fileHdr
  else if w = 0xF1FA ∨ nbits = 128 then some .frameHdr
  else if nbits = 160 then some .sliceKey
  else if nbits = 48 then some .chunkHdr
  else if w = 0x2019 ∨ w = 0x2005 ∨ w = 0x2018 ∨ w = 0x2022 then some .chunkType
  else if 256 ≤ w ∧ w ≤ 287 then some .litSym
  else if nbits = 16 ∧ w = 2 then some .celType
  else if nbits = 16 ∧ w = 0 then some .zlibHdr
  else if nbits = 16 ∧ w ≤ 18 then some (.clSym false)
  else if nbits = 16 then some .chunkType
  else if w = 1 then some .ctrl
  else if w < 4 then some .blkType
  else if w ≤ 18 then some (.clSym false)
  else if w ≤ 31 then some .distSym
  else if nbits = 32 then some .trailer
  else none

/-- A code-length table in which every one of the 19 symbols is its own 5-bit codeword, for reading table numbers. -/
def plainClTable : Table := tableOf (buildTable (List.replicate 19 5) Config.clSyms Config.clSyms)

/-- The table by which a table number's symbol is coded: the fixed tables (41_huffman.md R180, R181). -/
def tableWordTable : Site → Table
  | .clSym _ => plainClTable
  | .litSym => fixedLitTable
  | .distSym => fixedDistTable
  | _ => Table.empty

/-- The token's bits as they stand at the place, from the table's number: the key field at its offset, or the symbol's
codeword, and every other bit 0. -/
def tableWordBits (site : Site) (w : Nat) : Bits :=
  match site with
  | .fileHdr => bitsOf 32 0 ++ bitsOf 16 w ++ bitsOf 976 0
  | .frameHdr => bitsOf 32 0 ++ bitsOf 16 w ++ bitsOf 80 0
  | .chunkHdr => bitsOf 48 w
  | .chunkType => bitsOf 16 w ++ bitsOf 160 0
  | .palEntry => bitsOf 48 w
  | .celType => bitsOf 16 w ++ bitsOf 88 0
  | .tagRec => bitsOf 152 w
  | .sliceKey => bitsOf 160 w
  | .zlibHdr => bitsOf 16 w
  | .dictId => bitsOf 32 w
  | .trailer => bitsOf 32 w
  | .blkHdr => bitsOf 3 w
  | .blkType => bitsOf 2 w
  | .storedHdr => bitsOf 32 w
  | .dynHdr => bitsOf 14 w
  | .clLen => bitsOf 3 w
  | .clSym _ => plainClTable.codeword w ++ bitsOf 16 0
  | .litSym => fixedLitTable.codeword w ++ bitsOf 16 0
  | .distSym => fixedDistTable.codeword w ++ bitsOf 16 0
  | .ctrl => bitsOf 64 w

/-- The instruction the decoder reads from a table number (log 2). -/
def decodeTableWord (nbits w : Nat) : Option Instr :=
  match tableWordSite nbits w with
  | none => none
  | some site =>
    match decode site (tableWordTable site) (tableWordBits site w) with
    | .ok (i, _) => some i
    | .error _ => none

end Sys2Proof
end

