-- ==== Sys2Proof/Machine/State.lean ====
section
/-! DEFINITION. The state of the block: everything 10_state.md and 20_memory.md name, as plain data, with the reasons for
which a step stops, and the state after reset (70_reset_and_hazards.md R440). -/

namespace Sys2Proof.Machine

/-- Why a step stops with a fault. -/
inductive Fault where
  /-- Raised by a host access to an address outside a space: `IN` at or above 2^32 − 1 (00_scope.md R11), or a result
  memory at or above its size (00_scope.md R16: no legal primitive call). Safe: the model stops where the spec gives no
  meaning (log 13). -/
  | noSuchAddress
deriving DecidableEq, Repr

/-- Why a step has no meaning. -/
inductive Refusal where
  /-- Raised by `exec` for an instruction without a meaning; no arm answers so. Safe. -/
  | notModelled (mnemonic : String)
  /-- Raised by a host write of `IN` while BUSY = 1 (70_reset_and_hazards.md R451). Safe. -/
  | hostWriteDuringLoad
  /-- Raised by a host read of a result memory while BUSY = 1 (R451). Safe. -/
  | hostReadDuringLoad
deriving DecidableEq, Repr

/-- A byte space as (address, byte) cells, addresses strictly rising. -/
abbrev Memory := List Host.Cell

/-- A tag (20_memory.md R75). -/
structure Tag where
  label : List Byte
  first : Half
  last : Half
deriving DecidableEq, Repr

/-- A slice (20_memory.md R76): x and y are the signed values of their i32 fields. -/
structure Slice where
  label : List Byte
  x : Int
  y : Int
  w : Word
  h : Word
deriving DecidableEq, Repr

/-- The ten result registers, indices 5 to 14 (10_state.md R43). -/
structure Results where
  width : Reg
  height : Reg
  nframes : Reg
  bpp : Reg
  stride : Reg
  atlasLen : Reg
  palCount : Reg
  palKey : Reg
  tagCount : Reg
  sliceCount : Reg
deriving DecidableEq, Repr

/-- All result registers 0. -/
def Results.zero : Results :=
  { width := 0, height := 0, nframes := 0, bpp := 0, stride := 0, atlasLen := 0, palCount := 0, palKey := 0,
    tagCount := 0, sliceCount := 0 }

/-- What a host read returns. -/
inductive HostValue where
  /-- A register. -/
  | reg (v : Reg)
  /-- A byte of ATLAS or PAL. -/
  | byte (b : Byte)
  /-- An entry of DUR. -/
  | dur (d : Half)
  /-- An entry of TAGS. -/
  | tag (t : Tag)
  /-- An entry of SLICES. -/
  | slice (sl : Slice)
deriving DecidableEq, Repr

/-- One host action (60_exceptions.md R423). -/
inductive HostOp where
  /-- The host does nothing for one step of the engine (70_reset_and_hazards.md R450). -/
  | wait
  /-- A write of the host register with this index (10_state.md R38 to R43). -/
  | writeReg (index : Nat) (v : Reg)
  /-- A write of one byte of `IN`. -/
  | writeIn (a : Nat) (b : Byte)
  /-- A read of a host register. -/
  | readReg (index : Nat)
  /-- A read of a byte of ATLAS. -/
  | readAtlas (a : Nat)
  /-- A read of a byte of PAL, entry `a / 4`, in the order R, G, B, A. -/
  | readPal (a : Nat)
  /-- A read of an entry of DUR. -/
  | readDur (i : Nat)
  /-- A read of an entry of TAGS. -/
  | readTag (i : Nat)
  /-- A read of an entry of SLICES. -/
  | readSlice (i : Nat)
  /-- Reset, at any time (R440). -/
  | reset
deriving DecidableEq, Repr

/-- The sequencer states (10_state.md R33). -/
inductive Seq where
  | idle | fileHdr | frameHdr | chunkHdr | palette | cel | tags | slice | skip | frameEndCheck | zHdr | blkHdr | stored
  | fixedSetup | dynHdr | dynCl | dynLens | symbols | trailer | blit | flip | done | error
deriving DecidableEq, Repr

/-- Which of the two tokens of a sequencer state comes next (log 4): CHUNK_HDR or the chunk's type (`chunkHdr`), ZLIB_HDR
or ZLIB_DICTID (`zHdr`), BLK_HDR or the block type (`blkHdr`), a literal/length or a distance symbol (`symbols`). -/
inductive Phase where
  | head | tail
deriving DecidableEq, Repr

/-- The state. Datapath registers are unbounded naturals, as 10_state.md R31 allows (log 11). -/
structure State where
  /-- The parameters; no step writes them (log 9). -/
  cfg : Config
  /-- CTRL, index 0 (R38). -/
  ctrl : Reg
  /-- STATUS, index 1 (R39). -/
  status : Reg
  /-- ERR_INFO, index 2 (R40). -/
  errInfo : Reg
  /-- ERR_OFFSET, index 3 (R41). -/
  errOffset : Reg
  /-- IN_LEN, index 4 (R42). -/
  inLen : Reg
  /-- Indices 5 to 14 (R43). -/
  res : Results
  /-- The host's pending actions, the next one first (log 3). -/
  host : List HostOp
  /-- What the last host read returned (log 3). -/
  rx : Option HostValue
  /-- IN (20_memory.md R70): the bytes the host has written. -/
  inp : Memory
  /-- Which free values unwritten bytes of IN have (log 7). -/
  inEpoch : Nat
  /-- TILE (R71): the bytes the current stream has written. -/
  tile : Memory
  /-- Which free values unwritten bytes of TILE have (log 8). -/
  tileEpoch : Nat
  /-- ATLAS (R72): an unlisted byte below `atlasLen` is 0. -/
  atlas : Memory
  /-- The size of ATLAS. -/
  atlasLen : Nat
  /-- PAL (R73): byte 4k + j is byte j of entry k; an unlisted byte is 0. -/
  pal : Memory
  /-- DUR (R74). -/
  dur : List Half
  /-- TAGS (R75). -/
  tags : List Tag
  /-- SLICES (R76). -/
  slices : List Slice
  /-- SEQ (10_state.md R33). -/
  seq : Seq
  /-- Which token of the sequencer state comes next. -/
  phase : Phase
  /-- BR_START (R31). -/
  brStart : Nat
  /-- BR_END. -/
  brEnd : Nat
  /-- BR_POS. -/
  brPos : Nat
  /-- OUT_POS. -/
  outPos : Nat
  /-- OUT_CAP, the size of TILE. -/
  outCap : Nat
  /-- BFINAL. -/
  bfinal : Bool
  /-- BTYPE. -/
  btype : BitVec 2
  /-- HLIT. -/
  hlit : Nat
  /-- HDIST. -/
  hdist : Nat
  /-- HCLEN. -/
  hclen : Nat
  /-- CL_LEN (R44). -/
  clLens : List Nat
  /-- LENS (R44). -/
  lens : List Nat
  /-- LITTAB (R45). -/
  litTab : Table
  /-- DISTTAB. -/
  distTab : Table
  /-- CLTAB. -/
  clTab : Table
  /-- i of 42_inflate.md R214. -/
  clI : Nat
  /-- n of R216. -/
  lensN : Nat
  /-- len of R226. -/
  matchLen : Nat
  /-- ADLER_A. -/
  adlerA : Nat
  /-- ADLER_B. -/
  adlerB : Nat
  /-- CUR. -/
  cur : Nat
  /-- FILE_SIZE. -/
  fileSize : Nat
  /-- NFRAMES. -/
  nframes : Nat
  /-- WIDTH. -/
  width : Nat
  /-- HEIGHT. -/
  height : Nat
  /-- DEPTH. -/
  depth : Nat
  /-- BPP. -/
  bpp : Nat
  /-- TKEY. -/
  tkey : Byte
  /-- FRAME_IDX. -/
  frameIdx : Nat
  /-- FRAME_START. -/
  frameStart : Nat
  /-- FRAME_END. -/
  frameEnd : Nat
  /-- CHUNKS_LEFT. -/
  chunksLeft : Nat
  /-- CHUNK_START. -/
  chunkStart : Nat
  /-- CHUNK_END. -/
  chunkEnd : Nat
  /-- ctype of 44_container.md R344. -/
  ctype : Half
  /-- q of R352 and R370, k of R375. -/
  q : Nat
  /-- k of R352. -/
  palK : Nat
  /-- last of R350. -/
  palLast : Nat
  /-- count of R350. -/
  palNew : Nat
  /-- PAL_COUNT. -/
  palCount : Nat
  /-- CEL_X. -/
  celX : Int
  /-- CEL_Y. -/
  celY : Int
  /-- CEL_W. -/
  celW : Nat
  /-- CEL_H. -/
  celH : Nat
  /-- i of R370. -/
  tagI : Nat
  /-- n of R370. -/
  tagN : Nat
  /-- label of R375. -/
  sliceLabel : List Byte
  /-- FLIP_L. -/
  flipL : Bool
deriving DecidableEq, Repr

/-- The state after reset (70_reset_and_hazards.md R440). Host registers 0, SEQ IDLE, result memories empty, PAL zero: the
spec's. Datapath registers and loop variables 0, tables empty, register files zero: DESIGN CHOICE, unsafe (log 5, log 6). -/
def State.reset : State :=
  { cfg := Config.default
    ctrl := 0, status := 0, errInfo := 0, errOffset := 0, inLen := 0, res := Results.zero
    host := [], rx := none
    inp := [], inEpoch := 0, tile := [], tileEpoch := 0
    atlas := [], atlasLen := 0, pal := [], dur := [], tags := [], slices := []
    seq := .idle, phase := .head
    brStart := 0, brEnd := 0, brPos := 0, outPos := 0, outCap := 0
    bfinal := false, btype := 0, hlit := 0, hdist := 0, hclen := 0
    clLens := List.replicate 19 0, lens := List.replicate 320 0
    litTab := Table.empty, distTab := Table.empty, clTab := Table.empty
    clI := 0, lensN := 0, matchLen := 0, adlerA := 0, adlerB := 0
    cur := 0, fileSize := 0, nframes := 0, width := 0, height := 0, depth := 0, bpp := 0, tkey := 0
    frameIdx := 0, frameStart := 0, frameEnd := 0, chunksLeft := 0, chunkStart := 0, chunkEnd := 0
    ctype := 0, q := 0, palK := 0, palLast := 0, palNew := 0, palCount := 0
    celX := 0, celY := 0, celW := 0, celH := 0
    tagI := 0, tagN := 0, sliceLabel := [], flipL := false }

end Sys2Proof.Machine
end

