-- ==== Sys2Proof/Machine/Ops.lean ====
section
/-! DEFINITION. The named operations over memories and registers: memory access, the BitReader micro-operations
(40_bit_reader.md), the failure entry (60_exceptions.md R405), the load's start and end (R420, R421), the stream's start,
the output primitive and the copies (42_inflate.md, 43_zlib_adler.md), the container's loops (44_container.md) and the
atlas operations (45_atlas.md). -/

namespace Sys2Proof.Machine

/-- What a meaning answers. -/
abbrev Answer := Host.Outcome State Fault Refusal

/-! ## Memory

`d` is what an unlisted address reads as: `none` for IN and TILE (no value), `some 0` for ATLAS and PAL (log 24). -/

/-- The byte listed at `a`. -/
def Memory.find (m : Memory) (a : Nat) : Option Byte :=
  match m with
  | [] => none
  | c :: m => if c.1 = a then some c.2 else Memory.find m a

/-- The byte at `a`, or what an unlisted address reads as. -/
def Memory.read (d : Option Byte) (m : Memory) (a : Nat) : Option Byte := (m.find a).or d

/-- Writes `b` at `a`; writing what an unlisted address reads as removes the cell. -/
def Memory.write (d : Option Byte) (m : Memory) (a : Nat) (b : Byte) : Memory :=
  match m with
  | [] => if d = some b then [] else [(a, b)]
  | c :: m =>
    if a < c.1 then if d = some b then c :: m else (a, b) :: c :: m
    else if a = c.1 then if d = some b then m else (a, b) :: m
    else c :: Memory.write d m a b

/-- Every address of the memory lies above `lo`, addresses rise strictly, and no cell lists what an unlisted address
reads as. -/
def Memory.wfAbove (d : Option Byte) (lo : Option Nat) : Memory → Bool
  | [] => true
  | c :: m => (lo.all (· < c.1)) && (d != some c.2) && Memory.wfAbove d (some c.1) m

/-- The canonical form. -/
def Memory.wf (d : Option Byte) (m : Memory) : Bool := Memory.wfAbove d none m

/-- Writes `src 0 … src (n−1)` at `dst …`, the lowest address first. -/
def Memory.fill (d : Option Byte) (m : Memory) (dst : Nat) (src : Nat → Byte) : Nat → Memory
  | 0 => m
  | n + 1 => Memory.write d (Memory.fill d m dst src n) (dst + n) (src n)

/-- A byte of IN; a byte the host has not written has a free value (log 7). -/
def inByte (s : State) (a : Nat) : Byte := (s.inp.find a).getD (Config.inDraw s.inEpoch a)

/-- A byte of TILE; a byte the stream has not written has a free value (log 8). -/
def tileByte (s : State) (a : Nat) : Byte := (s.tile.find a).getD (Config.tileDraw s.tileEpoch a)

/-- A byte of ATLAS. -/
def atlasByte (s : State) (a : Nat) : Byte := (s.atlas.find a).getD 0

/-- Byte `j` of palette entry `k`, in the order R, G, B, A (10_state.md R46). -/
def palByte (s : State) (k j : Nat) : Byte := (s.pal.find (4 * k + j)).getD 0

/-- `MemRead(IN, a, n)` (00_scope.md R16). -/
def inBytes (s : State) (a n : Nat) : List Byte := (List.range n).map fun k => inByte s (a + k)

/-! ## Failure: the machine's exception -/

/-- The address ERR_OFFSET receives (60_exceptions.md R403). -/
def errAddress (c : Cause) (s : State) : Nat :=
  match c.anchor with
  | .file => 0
  | .frame => s.frameStart
  | .chunk => s.chunkStart

/-- The result memories as START and a failure leave them (70_reset_and_hazards.md R442; 60_exceptions.md R405). -/
def clearResults (s : State) : State :=
  { s with atlas := [], atlasLen := 0, dur := [], tags := [], slices := [], pal := [] }

/-- The failure entry (60_exceptions.md R405), from whatever state `raise` is met in: the cause and the offset are
recorded, every result memory is emptied, STATUS becomes BUSY 0, DONE 1, ERR 1 and SEQ returns to IDLE. There is no return
from it (R408). -/
def failEntry (c : Cause) (s : State) : State :=
  { clearResults s with
    errInfo := errInfoWord c
    errOffset := BitVec.ofNat 64 (errAddress c s)
    status := statusWord false true true
    seq := .idle, phase := .head }

/-- `raise` (00_scope.md R17): the load ends with this cause, a next state. -/
def raise (c : Cause) (s : State) : Answer := .next (failEntry c s)

/-- Goes on with a value, or raises the cause. -/
def orRaise {α : Type} (r : Except Cause α) (s : State) (k : α → Answer) : Answer :=
  match r with
  | .ok v => k v
  | .error c => raise c s

/-! ## Start and end of a load -/

/-- STATUS.BUSY. -/
def busy (s : State) : Bool := statusBusy s.status

/-- START while BUSY = 0 (60_exceptions.md R420). -/
def startLoad (s : State) : State :=
  { clearResults s with
    flipL := ctrlFlip s.ctrl
    status := statusWord true false false
    errInfo := 0, errOffset := 0, res := Results.zero
    seq := .fileHdr, phase := .head }

/-- The stride `S` of 45_atlas.md. -/
def stride (s : State) : Nat := s.width * s.nframes * s.bpp

/-- The atlas size `n` of 44_container.md R337. -/
def atlasSize (s : State) : Nat := s.width * s.height * s.nframes * s.bpp

/-- Result publication (45_atlas.md R390) and success completion (60_exceptions.md R421). -/
def publish (s : State) : State :=
  { s with
    res :=
      { width := BitVec.ofNat 64 s.width
        height := BitVec.ofNat 64 s.height
        nframes := BitVec.ofNat 64 s.nframes
        bpp := BitVec.ofNat 64 s.bpp
        stride := BitVec.ofNat 64 (stride s)
        atlasLen := BitVec.ofNat 64 (atlasSize s)
        palCount := BitVec.ofNat 64 s.palCount
        palKey := s.tkey.zeroExtend 64
        tagCount := BitVec.ofNat 64 s.tags.length
        sliceCount := BitVec.ofNat 64 s.slices.length }
    status := statusWord false true false
    seq := .idle, phase := .head }

/-! ## BitReader -/

/-- `init(start, end)` (40_bit_reader.md R150). -/
def initReader (start stop : Nat) (s : State) : State := { s with brStart := start, brEnd := stop, brPos := 0 }

/-- `avail()`: bits not yet consumed. -/
def avail (s : State) : Nat := 8 * (s.brEnd - s.brStart) - s.brPos

/-- `bit(i)` of the reader's range (00_scope.md R15). -/
def streamBit (s : State) (i : Nat) : Bool := (inByte s (s.brStart + i / 8)).getLsbD (i % 8)

/-- The bits not yet consumed, the next one first (R151). -/
def bitStream (s : State) : Bits := (List.range (avail s)).map fun k => streamBit s (s.brPos + k)

/-- Moves BR_POS on by `n` bits. -/
def advanceBits (n : Nat) (s : State) : State := { s with brPos := s.brPos + n }

/-- `refill()` (R152): no architectural effect. -/
def refill (s : State) : State := s

/-- `getBits(n)` (R153). DESIGN CHOICE: a request with `n` above 16, which no rule makes (R160), is answered like any other
(log 30). -/
def getBits (n : Nat) (s : State) : Except Cause (Nat × State) :=
  match takeBits n (bitStream s) with
  | none => .error .truncated
  | some (v, _) => .ok (v, advanceBits n s)

/-- `peekBits()` (R154). -/
def peekBits (s : State) : Nat := peekWord (bitStream s)

/-- `consumeBits(n)` (R155). -/
def consumeBits (n : Nat) (s : State) : Except Cause State :=
  if avail s < n then .error .truncated else .ok (advanceBits n s)

/-- `byteAlign()` (R156). -/
def byteAlign (s : State) : State := { s with brPos := alignUp s.brPos }

/-- `readByte()` (R159). -/
def readByte (s : State) : Except Cause (Byte × State) :=
  match getBits 8 s with
  | .error c => .error c
  | .ok (v, s) => .ok (BitVec.ofNat 8 v, s)

/-! ## zlib stream and output -/

/-- Stream start: R300 and R301 of 43_zlib_adler.md. The content of TILE is unspecified from here on (log 8). DESIGN CHOICE,
unsafe: BFINAL, unspecified here (10_state.md R36), and BTYPE, HLIT, HDIST, HCLEN, CL_LEN, LENS and the tables keep what the
previous stream left (log 29). -/
def startStream (ps pe cap : Nat) (s : State) : State :=
  { initReader ps pe s with
    seq := .zHdr, phase := .head
    outCap := cap, outPos := 0, tile := [], tileEpoch := s.tileEpoch + 1
    adlerA := 1, adlerB := 0 }

/-- `put(b)` of 42_inflate.md, with `adler_update(b)` of 43_zlib_adler.md R310. -/
def put (b : Byte) (s : State) : State :=
  { s with
    tile := s.tile.write none s.outPos b
    adlerA := adlerStepA s.adlerA b
    adlerB := adlerStepB s.adlerA s.adlerB b
    outPos := s.outPos + 1 }

/-- The stored copy (42_inflate.md R210): `n` times `put(readByte())`. -/
def storedCopy : Nat → State → Except Cause State
  | 0, s => .ok s
  | n + 1, s =>
    match readByte s with
    | .error c => .error c
    | .ok (b, s) => storedCopy n (put b s)

/-- The match copy (42_inflate.md R228): each byte is read after the byte before it is written. -/
def matchCopy (dist : Nat) : Nat → State → State
  | 0, s => s
  | n + 1, s => matchCopy dist n (put (tileByte s (s.outPos - dist)) s)

/-- End of a block (42_inflate.md R205, 43_zlib_adler.md R304): the trailer after the final block, else the next header. -/
def endBlock (s : State) : State :=
  { s with seq := if s.bfinal then .trailer else .blkHdr, phase := .head }

/-- A match length is known; the distance symbol comes next (42_inflate.md R226 step 1). -/
def beginMatch (sym extra : Nat) (s : State) : Answer :=
  .next { s with matchLen := lengthOperand sym extra, seq := .symbols, phase := .tail }

/-- Steps 5 and 6 of 42_inflate.md R226: the checks of R227 in their order and the copy of R228; then the next symbol. -/
def finishMatch (sym extra : Nat) (s : State) : Answer :=
  let dist := distanceOperand sym extra
  if s.outPos < dist then raise .distanceTooFar s
  else if s.outCap - s.outPos < s.matchLen then raise .outputOverflow s
  else .next { matchCopy dist s.matchLen s with seq := .symbols, phase := .head }

/-! ## Code lengths -/

/-- `LENS[n] <- v; n <- n + 1` (42_inflate.md R217). -/
def putLength (v : Nat) (s : State) : Answer :=
  .next { s with lens := s.lens.set s.lensN v, lensN := s.lensN + 1 }

/-- `n` entries of `LENS` from `i` on become `v`. -/
def setRun (v : Nat) : Nat → Nat → List Nat → List Nat
  | 0, _, l => l
  | n + 1, i, l => setRun v n (i + 1) (l.set i v)

/-- A run of `r` lengths `v` (R218 to R220): BAD_REPEAT when it overruns HLIT + HDIST. -/
def putRun (v r : Nat) (s : State) : Answer :=
  if s.hlit + s.hdist < s.lensN + r then raise .badRepeat s
  else .next { s with lens := setRun v r s.lensN s.lens, lensN := s.lensN + r }

/-- LITTAB and DISTTAB of a dynamic block, the literal/length table first (R221). -/
def buildBlockTables (s : State) : Except Cause (Table × Table) :=
  match buildTable (s.lens.take s.hlit) s.hlit Config.litLenSyms with
  | .error c => .error c
  | .ok lit =>
    match buildTable ((s.lens.drop s.hlit).take s.hdist) s.hdist Config.distSyms with
    | .error c => .error c
    | .ok dist => .ok (lit, dist)

/-! ## Container loops -/

/-- `r.FRAME_START <- r.CUR` (44_container.md R340). -/
def enterFrame (s : State) : State := { s with frameStart := s.cur }

/-- `r.CHUNK_START <- r.CUR` (44_container.md R344). -/
def enterChunk (s : State) : State := { s with chunkStart := s.cur }

/-- The end of the frame loop (44_container.md R330): the flip if wanted (45_atlas.md R384), then the publication. -/
def afterFrames (s : State) : State := { s with seq := if s.flipL then .flip else .done, phase := .head }

/-- The frame loop at index `f` (44_container.md R339). -/
def frameLoop (f : Nat) (s : State) : State :=
  if f < s.nframes then { s with frameIdx := f, seq := .frameHdr, phase := .head } else afterFrames s

/-- `r.CUR <- r.CHUNK_END; r.CHUNKS_LEFT <- r.CHUNKS_LEFT − 1` and the next chunk (44_container.md R345). -/
def endChunk (s : State) : State :=
  { s with cur := s.chunkEnd, chunksLeft := s.chunksLeft - 1, seq := .chunkHdr, phase := .head }

/-- Whether a size passes a capacity (00_scope.md R10). -/
def exceeds (n : Nat) (cap : Option Nat) : Bool := cap.any (· < n)

/-! ## Atlas -/

/-- `n` bytes of value `b` in canonical form. -/
def fillCells (n : Nat) (b : Byte) : Memory := if b = 0 then [] else (List.range n).map fun a => (a, b)

/-- Atlas initialisation (45_atlas.md R380). -/
def initAtlas (s : State) : State :=
  { s with atlas := fillCells (atlasSize s) (if s.bpp = 1 then s.tkey else 0), atlasLen := atlasSize s }

/-- The atlas offset of a tile's row (45_atlas.md R381, R382). -/
def rowOffset (s : State) (row : Nat) : Nat :=
  (s.celY.toNat + row) * stride s + (s.frameIdx * s.width + s.celX.toNat) * s.bpp

/-- The first `h` rows of the placement (45_atlas.md R382). -/
def blitRows (s : State) : Nat → Memory
  | 0 => s.atlas
  | h + 1 =>
    Memory.fill (some 0) (blitRows s h) (rowOffset s h) (fun c => tileByte s (h * (s.celW * s.bpp) + c)) (s.celW * s.bpp)

/-- `blit` of the current cel into its frame's band (45_atlas.md R382, R383). -/
def blit (s : State) : State := { s with atlas := blitRows s s.celH }

/-- Swaps `n` bytes at `a` with `n` bytes at `b`, byte by byte. -/
def swapBytes (a b : Nat) : Nat → Memory → Memory
  | 0, m => m
  | n + 1, m =>
    let m := swapBytes a b n m
    let x := (m.find (a + n)).getD 0
    let y := (m.find (b + n)).getD 0
    Memory.write (some 0) (Memory.write (some 0) m (a + n) y) (b + n) x

/-- The first `rows` swaps of the flip, rows of `S` bytes in an atlas of `height` rows (45_atlas.md R384). -/
def flipRows (S height : Nat) : Nat → Memory → Memory
  | 0, m => m
  | rows + 1, m => swapBytes (rows * S) ((height - 1 - rows) * S) S (flipRows S height rows m)

/-- The vertical flip (45_atlas.md R384). -/
def flipAtlas (s : State) : State :=
  { s with atlas := flipRows (stride s) s.height (s.height / 2) s.atlas }

end Sys2Proof.Machine
end

