-- ==== Sys2Proof/Machine/Fetch.lean ====
section
/-! DEFINITION. Fetching a token: at which place the engine reads next, which bits stand there, what the fetch itself does
to the cursors, and the placing of a table number where the next step fetches it. -/

namespace Sys2Proof.Machine

/-- The place of the next token, by the sequencer state and its loops' conditions (10_state.md R33); `none` where the
sequencer moves without a token. -/
def nextSite (s : State) : Option Site :=
  match s.seq, s.phase with
  | .fileHdr, _ => some .fileHdr
  | .frameHdr, _ => some .frameHdr
  | .chunkHdr, .head => if 0 < s.chunksLeft then some .chunkHdr else none
  | .chunkHdr, .tail => some .chunkType
  | .palette, _ => if s.palK ≤ s.palLast then some .palEntry else none
  | .cel, _ => some .celType
  | .tags, _ => if s.tagI < s.tagN then some .tagRec else none
  | .slice, _ => some .sliceKey
  | .zHdr, .head => some .zlibHdr
  | .zHdr, .tail => some .dictId
  | .blkHdr, .head => some .blkHdr
  | .blkHdr, .tail => some .blkType
  | .stored, _ => some .storedHdr
  | .dynHdr, _ => some .dynHdr
  | .dynCl, _ => if s.clI < s.hclen then some .clLen else none
  | .dynLens, _ => if s.lensN < s.hlit + s.hdist then some (.clSym (s.lensN == 0)) else none
  | .symbols, .head => some .litSym
  | .symbols, .tail => some .distSym
  | .trailer, _ => some .trailer
  | .idle, _ | .skip, _ | .frameEndCheck, _ | .fixedSetup, _ | .blit, _ | .flip, _ | .done, _ | .error, _ => none

/-- What the rules do before they look at the token's bits: the structure's start is recorded (44_container.md R340,
R344), STORED_HDR and the trailer are byte-aligned (42_inflate.md R208, 43_zlib_adler.md R305), and SYMBOLS begins with a
refill (42_inflate.md R229). -/
def enterSite (site : Site) (s : State) : State :=
  match site with
  | .frameHdr => enterFrame s
  | .chunkHdr => enterChunk s
  | .storedHdr => byteAlign s
  | .trailer => byteAlign s
  | .litSym => refill s
  | _ => s

/-- The bits of the bytes of `IN` from `a` up to `stop`. -/
def byteBits (s : State) (a stop : Nat) : Bits := bitsOfBytes (inBytes s a (stop - a))

/-- The bits that stand at a place: a record of `IN` up to the bound the rules check it against, the rest of the
compressed range, or the BTYPE register. The chunk type is the one CHUNK_HDR read (44_container.md R345). -/
def siteBits (site : Site) (s : State) : Bits :=
  match site with
  | .fileHdr => byteBits s 0 (min s.inLen.toNat Config.headerSize)
  | .frameHdr => byteBits s s.cur (min s.fileSize (s.cur + Config.frameHdrSize))
  | .chunkHdr => byteBits s s.cur (min s.frameEnd (s.cur + Config.chunkHdrSize))
  | .chunkType => bitsOf 16 s.ctype.toNat ++ byteBits s (s.chunkStart + Config.chunkHdrSize) s.chunkEnd
  | .palEntry => byteBits s s.q s.chunkEnd
  | .celType => byteBits s (s.chunkStart + 13) s.chunkEnd
  | .tagRec => byteBits s s.q s.chunkEnd
  | .sliceKey => byteBits s s.q s.chunkEnd
  | .zlibHdr => bitStream s
  | .dictId => bitStream s
  | .trailer => bitStream s
  | .blkHdr => bitStream s
  | .blkType => bitsOf 2 s.btype.toNat
  | .storedHdr => bitStream s
  | .dynHdr => bitStream s
  | .clLen => bitStream s
  | .clSym _ => bitStream s
  | .litSym => bitStream s
  | .distSym => bitStream s
  | .ctrl => []

/-- The table of the place's alphabet. -/
def siteTable (site : Site) (s : State) : Table :=
  match site with
  | .clSym _ => s.clTab
  | .litSym => s.litTab
  | .distSym => s.distTab
  | _ => Table.empty

/-- Moves the place's cursor past a token of `n` bits: BR_POS in a stream, the body cursor `q` in a chunk body
(`q <- s + 26`, `q <- q + 6`, `q <- q + 19 + len`, `k <- s + 20 + len` of 44_container.md). FILE_HDR, FRAME_HDR and
CHUNK_HDR move CUR in their own rules. -/
def moveCursor (site : Site) (n : Nat) (s : State) : State :=
  match site with
  | .chunkType => { s with q := s.chunkStart + 4 + n / 8 }
  | .palEntry => { s with q := s.q + n / 8 }
  | .tagRec => { s with q := s.q + n / 8 }
  | .sliceKey => { s with q := s.q + n / 8 }
  | .zlibHdr => advanceBits n s
  | .dictId => advanceBits n s
  | .trailer => advanceBits n s
  | .blkHdr => advanceBits n s
  | .storedHdr => advanceBits n s
  | .dynHdr => advanceBits n s
  | .clLen => advanceBits n s
  | .clSym _ => advanceBits n s
  | .litSym => advanceBits n s
  | .distSym => advanceBits n s
  | .fileHdr | .frameHdr | .chunkHdr | .celType | .blkType | .ctrl => s

/-- The cause raised when the input ends inside the token (60_exceptions.md R401). -/
def shortCause : Site → Cause
  | .fileHdr => .fileTooShort
  | .frameHdr => .frameTruncated
  | .chunkHdr => .badChunkSize
  | .chunkType | .palEntry | .celType | .tagRec | .sliceKey => .chunkBodyShort
  | .zlibHdr | .dictId | .trailer | .blkHdr | .blkType | .storedHdr | .dynHdr | .clLen | .clSym _ | .litSym | .distSym
  | .ctrl => .truncated

/-- Where no token is read: a failure, or, without a zlib header, the first block header (43_zlib_adler.md R302). DESIGN
CHOICE, unsafe: BR_POS and the token's registers keep what they held before the token, where the pseudocode has read some of
its bits (log 27). -/
def rejected (site : Site) (r : Reject) (s : State) : Answer :=
  match r with
  | .short => raise (shortCause site) s
  | .badSymbol => raise .badSymbol s
  | .noHeader => .next { s with seq := .blkHdr, phase := .head }
  | .noStart => .next s

/-- The token at a place of a state, with the number of bits it takes. -/
def fetch (site : Site) (s : State) : Except Reject (Instr × Nat) :=
  let s := enterSite site s
  let bs := siteBits site s
  match decode site (siteTable site s) bs with
  | .error r => .error r
  | .ok (i, rest) => .ok (i, bs.length - rest.length)

/-- The state in which the fetched token runs: entered, and past the token's own bits. -/
def pastToken (site : Site) (n : Nat) (s : State) : State := moveCursor site n (enterSite site s)

/-! ## Placing a table number -/

/-- Stores bytes in `IN` from `a` on. -/
def placeBytes (a : Nat) (bytes : List Byte) (s : State) : State :=
  { s with inp := Memory.fill none s.inp a (fun k => bytes.getD k 0) bytes.length }

/-- A load in progress at a sequencer state, with no host action pending. -/
def loading (seq : Seq) (phase : Phase) (s : State) : State :=
  { s with host := [], status := statusWord true false false, seq := seq, phase := phase }

/-- The address at which `placeWord` puts a record or a stream: the first frame's place (20_memory.md R86). -/
def placeBase : Nat := 128

/-- A compressed range that holds exactly the given bits, with the fixed tables. -/
def placeStream (bits : Bits) (s : State) : State :=
  let bytes := bytesOfBits bits.length bits
  let s := placeBytes placeBase bytes s
  { initReader placeBase (placeBase + bytes.length) s with litTab := fixedLitTable, distTab := fixedDistTable }

/-- A record of `IN` at `placeBase`, inside a file and a frame that end with it. -/
def placeRecord (bits : Bits) (s : State) : State :=
  let bytes := bytesOfBits bits.length bits
  let stop := placeBase + bytes.length
  { placeBytes placeBase bytes s with cur := placeBase, fileSize := stop, frameEnd := stop, chunkEnd := stop }

/-- The table number `w` stored where the next step fetches, as `decodeTableWord` reads it (log 1, log 2). -/
def placeWord (nbits w : Nat) (s : State) : State :=
  match tableWordSite nbits w with
  | none => s
  | some site =>
    let bits := tableWordBits site w
    match site with
    | .fileHdr =>
      loading .fileHdr .head { placeBytes 0 (bytesOfBits bits.length bits) s with inLen := 128 }
    | .frameHdr => loading .frameHdr .head (placeRecord bits s)
    | .chunkHdr => loading .chunkHdr .head { placeRecord bits s with chunksLeft := 1 }
    | .chunkType =>
      loading .chunkHdr .tail { placeRecord (bitsOf 48 0 ++ bits.drop 16) s with
        chunksLeft := 1, chunkStart := placeBase, ctype := BitVec.ofNat 16 w }
    | .palEntry => loading .palette .head { placeRecord bits s with q := placeBase, palK := 0, palLast := 0 }
    | .celType => loading .cel .head { placeRecord (bitsOf 104 0 ++ bits) s with chunkStart := placeBase }
    | .tagRec => loading .tags .head { placeRecord bits s with q := placeBase, tagI := 0, tagN := 1 }
    | .sliceKey => loading .slice .head { placeRecord bits s with q := placeBase }
    | .zlibHdr => loading .zHdr .head (placeStream bits s)
    | .dictId => loading .zHdr .tail (placeStream bits s)
    | .trailer => loading .trailer .head (placeStream bits s)
    | .blkHdr => loading .blkHdr .head (placeStream bits s)
    | .blkType => loading .blkHdr .tail { s with btype := BitVec.ofNat 2 w }
    | .storedHdr => loading .stored .head (placeStream bits s)
    | .dynHdr => loading .dynHdr .head (placeStream bits s)
    | .clLen => loading .dynCl .head { placeStream bits s with clI := 0, hclen := 4 }
    | .clSym first =>
      loading .dynLens .head { placeStream bits s with
        clTab := plainClTable, hlit := 257, hdist := 1, lensN := if first then 0 else 1 }
    | .litSym => loading .symbols .head (placeStream bits s)
    | .distSym => loading .symbols .tail (placeStream bits s)
    | .ctrl => { s with host := [.writeReg 0 (BitVec.ofNat 64 w)] }

end Sys2Proof.Machine
end

