-- ==== Sys2Proof/Machine/BlockTokens.lean ====
section
/-! DEFINITION. The meanings of the block tokens (42_inflate.md sections 1 to 3). The step has already moved BR_POS past the
token's bits. -/

namespace Sys2Proof.Machine

/-- BLK_HDR: R200. -/
def execBlkHdr (bfinal : Bool) (btype : BitVec 2) (s : State) : Answer :=
  .next { s with bfinal := bfinal, btype := btype, seq := .blkHdr, phase := .tail }

/-- BLK_STORED: R201. -/
def execBlkStored (s : State) : Answer := .next { s with seq := .stored, phase := .head }

/-- BLK_FIXED: R202; the tables are built in the state FIXED_SETUP. -/
def execBlkFixed (s : State) : Answer := .next { s with seq := .fixedSetup, phase := .head }

/-- BLK_DYNAMIC: R203. -/
def execBlkDynamic (s : State) : Answer := .next { s with seq := .dynHdr, phase := .head }

/-- BLK_RESERVED: R204. -/
def execBlkReserved (s : State) : Answer := raise .badBlockType s

/-- STORED_HDR: the checks of R209 in their order, the copy of R210, the block's end (R205). -/
def execStoredHdr (len nlen : Half) (s : State) : Answer :=
  if nlen.toNat ≠ 0xFFFF - len.toNat then raise .storedLenMismatch s
  else if s.outCap - s.outPos < len.toNat then raise .outputOverflow s
  else if avail s < 8 * len.toNat then raise .truncated s
  else orRaise (storedCopy len.toNat s) s fun s => .next (endBlock s)

/-- DYN_HDR: R213, and the cleared CL_LEN of R214. DESIGN CHOICE: SEQ enters DYN_CL here (log 28). -/
def execDynHdr (hlit hdist : BitVec 5) (hclen : BitVec 4) (s : State) : Answer :=
  .next { s with
    hlit := hlitOperand hlit, hdist := hdistOperand hdist, hclen := hclenOperand hclen
    clLens := List.replicate Config.clSyms 0, clI := 0
    seq := .dynCl, phase := .head }

/-- CL_LEN: R214. -/
def execClLen (len : BitVec 3) (s : State) : Answer :=
  .next { s with clLens := s.clLens.set (clOrder.getD s.clI 0) len.toNat, clI := s.clI + 1 }

end Sys2Proof.Machine
end

