-- ==== Sys2Proof/Machine/CodeLengthTokens.lean ====
section
/-! DEFINITION. The meanings of the code-length symbols (42_inflate.md R217 to R220). -/

namespace Sys2Proof.Machine

/-- CL_LIT_0: R217. -/
def execClLit0 (s : State) : Answer := putLength 0 s

/-- CL_LIT_1: R217. -/
def execClLit1 (s : State) : Answer := putLength 1 s

/-- CL_LIT_2: R217. -/
def execClLit2 (s : State) : Answer := putLength 2 s

/-- CL_LIT_3: R217. -/
def execClLit3 (s : State) : Answer := putLength 3 s

/-- CL_LIT_4: R217. -/
def execClLit4 (s : State) : Answer := putLength 4 s

/-- CL_LIT_5: R217. -/
def execClLit5 (s : State) : Answer := putLength 5 s

/-- CL_LIT_6: R217. -/
def execClLit6 (s : State) : Answer := putLength 6 s

/-- CL_LIT_7: R217. -/
def execClLit7 (s : State) : Answer := putLength 7 s

/-- CL_LIT_8: R217. -/
def execClLit8 (s : State) : Answer := putLength 8 s

/-- CL_LIT_9: R217. -/
def execClLit9 (s : State) : Answer := putLength 9 s

/-- CL_LIT_10: R217. -/
def execClLit10 (s : State) : Answer := putLength 10 s

/-- CL_LIT_11: R217. -/
def execClLit11 (s : State) : Answer := putLength 11 s

/-- CL_LIT_12: R217. -/
def execClLit12 (s : State) : Answer := putLength 12 s

/-- CL_LIT_13: R217. -/
def execClLit13 (s : State) : Answer := putLength 13 s

/-- CL_LIT_14: R217. -/
def execClLit14 (s : State) : Answer := putLength 14 s

/-- CL_LIT_15: R217. -/
def execClLit15 (s : State) : Answer := putLength 15 s

/-- CL_REP16: R218. -/
def execClRep16 (extra : BitVec 2) (s : State) : Answer :=
  if s.lensN = 0 then raise .badRepeat s
  else putRun (s.lens.getD (s.lensN - 1) 0) (rep16Count extra) s

/-- CL_ZERO17: R219. -/
def execClZero17 (extra : BitVec 3) (s : State) : Answer := putRun 0 (zero17Count extra) s

/-- CL_ZERO18: R220. -/
def execClZero18 (extra : BitVec 7) (s : State) : Answer := putRun 0 (zero18Count extra) s

end Sys2Proof.Machine
end

