-- ==== Sys2Proof/Machine/ContainerTokens.lean ====
section
/-! DEFINITION. The meanings of the container tokens (44_container.md). The step has already moved the body cursor `q` past
the token's own bytes; CUR moves where the rules move it. -/

namespace Sys2Proof.Machine

/-- The registers of R331 and R332. -/
def headerFields (size : Word) (nframes width height depth : Half) (tkey : Byte) (s : State) : State :=
  { s with
    fileSize := size.toNat, nframes := nframes.toNat, width := width.toNat, height := height.toNat
    depth := depth.toNat, tkey := tkey }

/-- The walk's start: the atlas (R337), the empty results (R338) and frame 0 (R339). -/
def startWalk (s : State) : State :=
  let s := initAtlas s
  frameLoop 0 { s with
    dur := List.replicate s.nframes 0, tags := [], slices := [], palCount := 0, cur := Config.headerSize }

/-- FILE_HDR: R331 to R339. The order of the failures is that of 60_exceptions.md R406: BAD_FILE_MAGIC, BAD_FILE_SIZE,
COLOR_DEPTH, ATLAS_TOO_LARGE. DESIGN CHOICE, unsafe: the registers of R332 are written before the magic is checked
(log 31). -/
def execFileHdr (size : Word) (magic nframes width height depth : Half) (tkey : Byte) (s : State) : Answer :=
  let s := headerFields size nframes width height depth tkey s
  if magic ≠ s.cfg.fileMagic then raise .badFileMagic s
  else if s.fileSize < Config.headerSize ∨ s.inLen.toNat < s.fileSize then raise .badFileSize s
  else
    match bytesPerPixel s.depth with
    | none => raise .colorDepth s
    | some bpp =>
      let s := { s with bpp := bpp }
      if exceeds (atlasSize s) s.cfg.atlasCapacity then raise .atlasTooLarge s
      else .next (startWalk s)

/-- FRAME_HDR: R340 to R343. -/
def execFrameHdr (bytes : Word) (magic legacy duration : Half) (newCount : Word) (s : State) : Answer :=
  let s := enterFrame s
  if magic ≠ Config.frameMagic then raise .badFrameMagic s
  else if bytes.toNat < Config.frameHdrSize ∨ s.fileSize < s.cur + bytes.toNat then raise .badFrameSize s
  else
    .next { s with
      frameEnd := s.cur + bytes.toNat
      dur := s.dur.set s.frameIdx duration
      chunksLeft := chunkCount legacy newCount
      cur := s.cur + Config.frameHdrSize
      seq := .chunkHdr, phase := .head }

/-- CHUNK_HDR: R344; the type is kept for the dispatch of R345. -/
def execChunkHdr (size : Word) (type : Half) (s : State) : Answer :=
  let s := enterChunk s
  if size.toNat < Config.chunkHdrSize ∨ s.frameEnd < s.cur + size.toNat then raise .badChunkSize s
  else .next { s with chunkEnd := s.cur + size.toNat, ctype := type, seq := .chunkHdr, phase := .tail }

/-- CHUNK_PALETTE: R350, R351, and the loop's start (R352). -/
def execChunkPalette (count first last : Word) (s : State) : Answer :=
  if Config.palCapacity < count.toNat ∨ Config.palCapacity ≤ last.toNat ∨ last.toNat < first.toNat then
    raise .paletteRange s
  else
    .next { s with
      palNew := count.toNat, palK := first.toNat, palLast := last.toNat, seq := .palette, phase := .head }

/-- CHUNK_CEL: R360. -/
def execChunkCel (x y : Half) (s : State) : Answer :=
  let s := { s with celX := celOffset x, celY := celOffset y }
  if s.celX < 0 ∨ s.celY < 0 then raise .negativeCelOffset s
  else .next { s with seq := .cel, phase := .head }

/-- CHUNK_TAGS: R370 up to its loop; the list is replaced. -/
def execChunkTags (n : Half) (s : State) : Answer :=
  .next { s with tags := [], tagN := n.toNat, tagI := 0, seq := .tags, phase := .head }

/-- CHUNK_SLICE: R375 up to the key: SLICE_FLAGS before SLICE_NO_KEYS. -/
def execChunkSlice (nkeys flags : Word) (label : List Byte) (s : State) : Answer :=
  if flags ≠ 0 then raise .sliceFlags s
  else if nkeys = 0 then raise .sliceNoKeys s
  else .next { s with sliceLabel := label, seq := .slice, phase := .head }

/-- CHUNK_OTHER: R349, nothing is read or written. -/
def execChunkOther (_type : Half) (s : State) : Answer :=
  .next { s with seq := .skip, phase := .head }

/-- PAL_ENTRY: R352; flag bits 15:1 are ignored (R353). -/
def execPalEntry (_flags : Half) (r g b a : Byte) (s : State) : Answer :=
  .next { s with pal := Memory.fill (some 0) s.pal (4 * s.palK) (fun j => [r, g, b, a].getD j 0) 4, palK := s.palK + 1 }

/-- PAL_ENTRY_NAMED: R353. -/
def execPalEntryNamed (_flags : Half) (s : State) : Answer := raise .paletteName s

/-- CEL_COMPRESSED: R362 to R365; TILE_TOO_LARGE before CEL_OUT_OF_CANVAS (60_exceptions.md R406). -/
def execCelCompressed (w h : Half) (s : State) : Answer :=
  let s := { s with celW := w.toNat, celH := h.toNat }
  let cap := s.celW * s.celH * s.bpp
  if exceeds cap s.cfg.tileCapacity then raise .tileTooLarge s
  else if (s.width : Int) < s.celX + s.celW ∨ (s.height : Int) < s.celY + s.celH then raise .celOutOfCanvas s
  else .next (startStream (s.chunkStart + 26) s.chunkEnd cap s)

/-- CEL_TYPE_OTHER: R362. -/
def execCelTypeOther (_type : Half) (s : State) : Answer := raise .celType s

/-- TAG_REC: R370, R371. -/
def execTagRec (first last : Half) (label : List Byte) (s : State) : Answer :=
  .next { s with tags := s.tags ++ [{ label := label, first := first, last := last }], tagI := s.tagI + 1 }

/-- SLICE_KEY: R375, R377, and the chunk's end; later keys are not read (R376). -/
def execSliceKey (x y w h : Word) (s : State) : Answer :=
  .next (endChunk { s with
    slices := s.slices ++ [{ label := s.sliceLabel, x := sliceCoord x, y := sliceCoord y, w := w, h := h }] })

end Sys2Proof.Machine
end

