-- ==== Sys2Proof/Machine/DistanceTokens.lean ====
section
/-! DEFINITION. The meanings of the distance symbols (42_inflate.md R225, R260 to R289). -/

namespace Sys2Proof.Machine

/-- DIST_0: R260. -/
def execDist0 (s : State) : Answer := finishMatch 0 0 s

/-- DIST_1: R261. -/
def execDist1 (s : State) : Answer := finishMatch 1 0 s

/-- DIST_2: R262. -/
def execDist2 (s : State) : Answer := finishMatch 2 0 s

/-- DIST_3: R263. -/
def execDist3 (s : State) : Answer := finishMatch 3 0 s

/-- DIST_4: R264. -/
def execDist4 (extra : BitVec 1) (s : State) : Answer := finishMatch 4 extra.toNat s

/-- DIST_5: R265. -/
def execDist5 (extra : BitVec 1) (s : State) : Answer := finishMatch 5 extra.toNat s

/-- DIST_6: R266. -/
def execDist6 (extra : BitVec 2) (s : State) : Answer := finishMatch 6 extra.toNat s

/-- DIST_7: R267. -/
def execDist7 (extra : BitVec 2) (s : State) : Answer := finishMatch 7 extra.toNat s

/-- DIST_8: R268. -/
def execDist8 (extra : BitVec 3) (s : State) : Answer := finishMatch 8 extra.toNat s

/-- DIST_9: R269. -/
def execDist9 (extra : BitVec 3) (s : State) : Answer := finishMatch 9 extra.toNat s

/-- DIST_10: R270. -/
def execDist10 (extra : BitVec 4) (s : State) : Answer := finishMatch 10 extra.toNat s

/-- DIST_11: R271. -/
def execDist11 (extra : BitVec 4) (s : State) : Answer := finishMatch 11 extra.toNat s

/-- DIST_12: R272. -/
def execDist12 (extra : BitVec 5) (s : State) : Answer := finishMatch 12 extra.toNat s

/-- DIST_13: R273. -/
def execDist13 (extra : BitVec 5) (s : State) : Answer := finishMatch 13 extra.toNat s

/-- DIST_14: R274. -/
def execDist14 (extra : BitVec 6) (s : State) : Answer := finishMatch 14 extra.toNat s

/-- DIST_15: R275. -/
def execDist15 (extra : BitVec 6) (s : State) : Answer := finishMatch 15 extra.toNat s

/-- DIST_16: R276. -/
def execDist16 (extra : BitVec 7) (s : State) : Answer := finishMatch 16 extra.toNat s

/-- DIST_17: R277. -/
def execDist17 (extra : BitVec 7) (s : State) : Answer := finishMatch 17 extra.toNat s

/-- DIST_18: R278. -/
def execDist18 (extra : BitVec 8) (s : State) : Answer := finishMatch 18 extra.toNat s

/-- DIST_19: R279. -/
def execDist19 (extra : BitVec 8) (s : State) : Answer := finishMatch 19 extra.toNat s

/-- DIST_20: R280. -/
def execDist20 (extra : BitVec 9) (s : State) : Answer := finishMatch 20 extra.toNat s

/-- DIST_21: R281. -/
def execDist21 (extra : BitVec 9) (s : State) : Answer := finishMatch 21 extra.toNat s

/-- DIST_22: R282. -/
def execDist22 (extra : BitVec 10) (s : State) : Answer := finishMatch 22 extra.toNat s

/-- DIST_23: R283. -/
def execDist23 (extra : BitVec 10) (s : State) : Answer := finishMatch 23 extra.toNat s

/-- DIST_24: R284. -/
def execDist24 (extra : BitVec 11) (s : State) : Answer := finishMatch 24 extra.toNat s

/-- DIST_25: R285. -/
def execDist25 (extra : BitVec 11) (s : State) : Answer := finishMatch 25 extra.toNat s

/-- DIST_26: R286. -/
def execDist26 (extra : BitVec 12) (s : State) : Answer := finishMatch 26 extra.toNat s

/-- DIST_27: R287. -/
def execDist27 (extra : BitVec 12) (s : State) : Answer := finishMatch 27 extra.toNat s

/-- DIST_28: R288. -/
def execDist28 (extra : BitVec 13) (s : State) : Answer := finishMatch 28 extra.toNat s

/-- DIST_29: R289. -/
def execDist29 (extra : BitVec 13) (s : State) : Answer := finishMatch 29 extra.toNat s

/-- DIST_INVALID: R225. -/
def execDistInvalid (_sym : BitVec 5) (s : State) : Answer := raise .badDistanceSymbol s

end Sys2Proof.Machine
end

