-- ==== Sys2Proof/Machine/HostTokens.lean ====
section
/-! DEFINITION. The host command START (60_exceptions.md R420). -/

namespace Sys2Proof.Machine

/-- A write of CTRL.FLIP (10_state.md R38): also while BUSY = 1, when it does not reach the running load. -/
def writeFlip (flip : Bool) (s : State) : State := { s with ctrl := ctrlWord flip }

/-- START: bit 1 of the START write sets FLIP, and a FLIP set by a separate earlier write takes effect too
(70_reset_and_hazards.md R444, R451). While BUSY = 1 the START itself is ignored (60_exceptions.md R420, 10_state.md R38),
else a load starts. DESIGN CHOICE, unsafe: bit 1 = 0 of a START write leaves FLIP as it is, and only a CTRL write with
bit 0 = 0 clears it (log 25). -/
def execStart (flip : Bool) (s : State) : Answer :=
  let s := writeFlip (flip || ctrlFlip s.ctrl) s
  if busy s then .next s else .next (startLoad s)

end Sys2Proof.Machine
end

