-- ==== Sys2Proof/Machine/LengthTokens.lean ====
section
/-! DEFINITION. The meanings of the literal/length symbols (42_inflate.md R222 to R224, R230 to R258). -/

namespace Sys2Proof.Machine

/-- LIT: R222. -/
def execLit (b : Byte) (s : State) : Answer :=
  if s.outCap ≤ s.outPos then raise .outputOverflow s else .next (put b s)

/-- EOB: R223. -/
def execEob (s : State) : Answer := .next (endBlock s)

/-- LEN_257: R230. -/
def execLen257 (s : State) : Answer := beginMatch 257 0 s

/-- LEN_258: R231. -/
def execLen258 (s : State) : Answer := beginMatch 258 0 s

/-- LEN_259: R232. -/
def execLen259 (s : State) : Answer := beginMatch 259 0 s

/-- LEN_260: R233. -/
def execLen260 (s : State) : Answer := beginMatch 260 0 s

/-- LEN_261: R234. -/
def execLen261 (s : State) : Answer := beginMatch 261 0 s

/-- LEN_262: R235. -/
def execLen262 (s : State) : Answer := beginMatch 262 0 s

/-- LEN_263: R236. -/
def execLen263 (s : State) : Answer := beginMatch 263 0 s

/-- LEN_264: R237. -/
def execLen264 (s : State) : Answer := beginMatch 264 0 s

/-- LEN_265: R238. -/
def execLen265 (extra : BitVec 1) (s : State) : Answer := beginMatch 265 extra.toNat s

/-- LEN_266: R239. -/
def execLen266 (extra : BitVec 1) (s : State) : Answer := beginMatch 266 extra.toNat s

/-- LEN_267: R240. -/
def execLen267 (extra : BitVec 1) (s : State) : Answer := beginMatch 267 extra.toNat s

/-- LEN_268: R241. -/
def execLen268 (extra : BitVec 1) (s : State) : Answer := beginMatch 268 extra.toNat s

/-- LEN_269: R242. -/
def execLen269 (extra : BitVec 2) (s : State) : Answer := beginMatch 269 extra.toNat s

/-- LEN_270: R243. -/
def execLen270 (extra : BitVec 2) (s : State) : Answer := beginMatch 270 extra.toNat s

/-- LEN_271: R244. -/
def execLen271 (extra : BitVec 2) (s : State) : Answer := beginMatch 271 extra.toNat s

/-- LEN_272: R245. -/
def execLen272 (extra : BitVec 2) (s : State) : Answer := beginMatch 272 extra.toNat s

/-- LEN_273: R246. -/
def execLen273 (extra : BitVec 3) (s : State) : Answer := beginMatch 273 extra.toNat s

/-- LEN_274: R247. -/
def execLen274 (extra : BitVec 3) (s : State) : Answer := beginMatch 274 extra.toNat s

/-- LEN_275: R248. -/
def execLen275 (extra : BitVec 3) (s : State) : Answer := beginMatch 275 extra.toNat s

/-- LEN_276: R249. -/
def execLen276 (extra : BitVec 3) (s : State) : Answer := beginMatch 276 extra.toNat s

/-- LEN_277: R250. -/
def execLen277 (extra : BitVec 4) (s : State) : Answer := beginMatch 277 extra.toNat s

/-- LEN_278: R251. -/
def execLen278 (extra : BitVec 4) (s : State) : Answer := beginMatch 278 extra.toNat s

/-- LEN_279: R252. -/
def execLen279 (extra : BitVec 4) (s : State) : Answer := beginMatch 279 extra.toNat s

/-- LEN_280: R253. -/
def execLen280 (extra : BitVec 4) (s : State) : Answer := beginMatch 280 extra.toNat s

/-- LEN_281: R254. -/
def execLen281 (extra : BitVec 5) (s : State) : Answer := beginMatch 281 extra.toNat s

/-- LEN_282: R255. -/
def execLen282 (extra : BitVec 5) (s : State) : Answer := beginMatch 282 extra.toNat s

/-- LEN_283: R256. -/
def execLen283 (extra : BitVec 5) (s : State) : Answer := beginMatch 283 extra.toNat s

/-- LEN_284: R257. -/
def execLen284 (extra : BitVec 5) (s : State) : Answer := beginMatch 284 extra.toNat s

/-- LEN_285: R258. -/
def execLen285 (s : State) : Answer := beginMatch 285 0 s

/-- LEN_INVALID: R224. -/
def execLenInvalid (_sym : BitVec 9) (s : State) : Answer := raise .badLengthSymbol s

end Sys2Proof.Machine
end

