-- ==== Sys2Proof/Machine/ZlibTokens.lean ====
section
/-! DEFINITION. The meanings of the zlib envelope's tokens (43_zlib_adler.md). The step has already moved BR_POS past the
token's bits. -/

namespace Sys2Proof.Machine

/-- ZLIB_HDR: R302, stripped; CM, FLEVEL and FCHECK are not looked at (R313); with FDICT the dictionary id follows
(R303). -/
def execZlibHdr (_cmf flg : Byte) (s : State) : Answer :=
  if fdict flg then .next { s with seq := .zHdr, phase := .tail }
  else .next { s with seq := .blkHdr, phase := .head }

/-- ZLIB_DICTID: R303, skipped; no dictionary is loaded. -/
def execZlibDictid (_id : Word) (s : State) : Answer := .next { s with seq := .blkHdr, phase := .head }

/-- ADLER32_TRAILER: the compare of R307, the count of R308 against the tile's capacity (44_container.md R366), then the
placement. -/
def execAdler32Trailer (adler : Word) (s : State) : Answer :=
  if adler.toNat ≠ adlerValue s.adlerA s.adlerB then raise .checksumMismatch s
  else if s.outPos ≠ s.outCap then raise .shortOutput s
  else .next { s with seq := .blit, phase := .head }

end Sys2Proof.Machine
end

