-- ==== Sys2Proof/Machine/Dispatch.lean ====
section
/-! DEFINITION. The dispatch of a token to its meaning. -/

namespace Sys2Proof.Machine

def exec (i : Instr) (s : State) : Host.Outcome State Fault Refusal :=
  match i with
  | .fileHdr size magic nframes width height depth tkey => Sys2Proof.Machine.execFileHdr size magic nframes width height depth tkey s
  | .frameHdr bytes magic legacy duration newCount => Sys2Proof.Machine.execFrameHdr bytes magic legacy duration newCount s
  | .chunkHdr size type => Sys2Proof.Machine.execChunkHdr size type s
  | .chunkPalette count first last => Sys2Proof.Machine.execChunkPalette count first last s
  | .chunkCel x y => Sys2Proof.Machine.execChunkCel x y s
  | .chunkTags n => Sys2Proof.Machine.execChunkTags n s
  | .chunkSlice nkeys flags label => Sys2Proof.Machine.execChunkSlice nkeys flags label s
  | .chunkOther type => Sys2Proof.Machine.execChunkOther type s
  | .palEntry flags r g b a => Sys2Proof.Machine.execPalEntry flags r g b a s
  | .palEntryNamed flags => Sys2Proof.Machine.execPalEntryNamed flags s
  | .celCompressed w h => Sys2Proof.Machine.execCelCompressed w h s
  | .celTypeOther type => Sys2Proof.Machine.execCelTypeOther type s
  | .tagRec first last label => Sys2Proof.Machine.execTagRec first last label s
  | .sliceKey x y w h => Sys2Proof.Machine.execSliceKey x y w h s
  | .zlibHdr cmf flg => Sys2Proof.Machine.execZlibHdr cmf flg s
  | .zlibDictid id => Sys2Proof.Machine.execZlibDictid id s
  | .adler32Trailer adler => Sys2Proof.Machine.execAdler32Trailer adler s
  | .blkHdr bfinal btype => Sys2Proof.Machine.execBlkHdr bfinal btype s
  | .blkStored => Sys2Proof.Machine.execBlkStored s
  | .blkFixed => Sys2Proof.Machine.execBlkFixed s
  | .blkDynamic => Sys2Proof.Machine.execBlkDynamic s
  | .blkReserved => Sys2Proof.Machine.execBlkReserved s
  | .storedHdr len nlen => Sys2Proof.Machine.execStoredHdr len nlen s
  | .dynHdr hlit hdist hclen => Sys2Proof.Machine.execDynHdr hlit hdist hclen s
  | .clLen len => Sys2Proof.Machine.execClLen len s
  | .clLit0 => Sys2Proof.Machine.execClLit0 s
  | .clLit1 => Sys2Proof.Machine.execClLit1 s
  | .clLit2 => Sys2Proof.Machine.execClLit2 s
  | .clLit3 => Sys2Proof.Machine.execClLit3 s
  | .clLit4 => Sys2Proof.Machine.execClLit4 s
  | .clLit5 => Sys2Proof.Machine.execClLit5 s
  | .clLit6 => Sys2Proof.Machine.execClLit6 s
  | .clLit7 => Sys2Proof.Machine.execClLit7 s
  | .clLit8 => Sys2Proof.Machine.execClLit8 s
  | .clLit9 => Sys2Proof.Machine.execClLit9 s
  | .clLit10 => Sys2Proof.Machine.execClLit10 s
  | .clLit11 => Sys2Proof.Machine.execClLit11 s
  | .clLit12 => Sys2Proof.Machine.execClLit12 s
  | .clLit13 => Sys2Proof.Machine.execClLit13 s
  | .clLit14 => Sys2Proof.Machine.execClLit14 s
  | .clLit15 => Sys2Proof.Machine.execClLit15 s
  | .clRep16 extra => Sys2Proof.Machine.execClRep16 extra s
  | .clZero17 extra => Sys2Proof.Machine.execClZero17 extra s
  | .clZero18 extra => Sys2Proof.Machine.execClZero18 extra s
  | .lit b => Sys2Proof.Machine.execLit b s
  | .eob => Sys2Proof.Machine.execEob s
  | .len257 => Sys2Proof.Machine.execLen257 s
  | .len258 => Sys2Proof.Machine.execLen258 s
  | .len259 => Sys2Proof.Machine.execLen259 s
  | .len260 => Sys2Proof.Machine.execLen260 s
  | .len261 => Sys2Proof.Machine.execLen261 s
  | .len262 => Sys2Proof.Machine.execLen262 s
  | .len263 => Sys2Proof.Machine.execLen263 s
  | .len264 => Sys2Proof.Machine.execLen264 s
  | .len265 extra => Sys2Proof.Machine.execLen265 extra s
  | .len266 extra => Sys2Proof.Machine.execLen266 extra s
  | .len267 extra => Sys2Proof.Machine.execLen267 extra s
  | .len268 extra => Sys2Proof.Machine.execLen268 extra s
  | .len269 extra => Sys2Proof.Machine.execLen269 extra s
  | .len270 extra => Sys2Proof.Machine.execLen270 extra s
  | .len271 extra => Sys2Proof.Machine.execLen271 extra s
  | .len272 extra => Sys2Proof.Machine.execLen272 extra s
  | .len273 extra => Sys2Proof.Machine.execLen273 extra s
  | .len274 extra => Sys2Proof.Machine.execLen274 extra s
  | .len275 extra => Sys2Proof.Machine.execLen275 extra s
  | .len276 extra => Sys2Proof.Machine.execLen276 extra s
  | .len277 extra => Sys2Proof.Machine.execLen277 extra s
  | .len278 extra => Sys2Proof.Machine.execLen278 extra s
  | .len279 extra => Sys2Proof.Machine.execLen279 extra s
  | .len280 extra => Sys2Proof.Machine.execLen280 extra s
  | .len281 extra => Sys2Proof.Machine.execLen281 extra s
  | .len282 extra => Sys2Proof.Machine.execLen282 extra s
  | .len283 extra => Sys2Proof.Machine.execLen283 extra s
  | .len284 extra => Sys2Proof.Machine.execLen284 extra s
  | .len285 => Sys2Proof.Machine.execLen285 s
  | .lenInvalid sym => Sys2Proof.Machine.execLenInvalid sym s
  | .dist0 => Sys2Proof.Machine.execDist0 s
  | .dist1 => Sys2Proof.Machine.execDist1 s
  | .dist2 => Sys2Proof.Machine.execDist2 s
  | .dist3 => Sys2Proof.Machine.execDist3 s
  | .dist4 extra => Sys2Proof.Machine.execDist4 extra s
  | .dist5 extra => Sys2Proof.Machine.execDist5 extra s
  | .dist6 extra => Sys2Proof.Machine.execDist6 extra s
  | .dist7 extra => Sys2Proof.Machine.execDist7 extra s
  | .dist8 extra => Sys2Proof.Machine.execDist8 extra s
  | .dist9 extra => Sys2Proof.Machine.execDist9 extra s
  | .dist10 extra => Sys2Proof.Machine.execDist10 extra s
  | .dist11 extra => Sys2Proof.Machine.execDist11 extra s
  | .dist12 extra => Sys2Proof.Machine.execDist12 extra s
  | .dist13 extra => Sys2Proof.Machine.execDist13 extra s
  | .dist14 extra => Sys2Proof.Machine.execDist14 extra s
  | .dist15 extra => Sys2Proof.Machine.execDist15 extra s
  | .dist16 extra => Sys2Proof.Machine.execDist16 extra s
  | .dist17 extra => Sys2Proof.Machine.execDist17 extra s
  | .dist18 extra => Sys2Proof.Machine.execDist18 extra s
  | .dist19 extra => Sys2Proof.Machine.execDist19 extra s
  | .dist20 extra => Sys2Proof.Machine.execDist20 extra s
  | .dist21 extra => Sys2Proof.Machine.execDist21 extra s
  | .dist22 extra => Sys2Proof.Machine.execDist22 extra s
  | .dist23 extra => Sys2Proof.Machine.execDist23 extra s
  | .dist24 extra => Sys2Proof.Machine.execDist24 extra s
  | .dist25 extra => Sys2Proof.Machine.execDist25 extra s
  | .dist26 extra => Sys2Proof.Machine.execDist26 extra s
  | .dist27 extra => Sys2Proof.Machine.execDist27 extra s
  | .dist28 extra => Sys2Proof.Machine.execDist28 extra s
  | .dist29 extra => Sys2Proof.Machine.execDist29 extra s
  | .distInvalid sym => Sys2Proof.Machine.execDistInvalid sym s
  | .start flip => Sys2Proof.Machine.execStart flip s

end Sys2Proof.Machine
end

