-- ==== Sys2Proof/Machine/HostPort.lean ====
section
/-! DEFINITION. The host's accesses (10_state.md section 5, 60_exceptions.md R422, R423, 70_reset_and_hazards.md R440,
R451). -/

namespace Sys2Proof.Machine

/-- The value a read of a host register gives; index 15 and above are reserved and read 0 (10_state.md R38 to R43). -/
def readReg (s : State) (index : Nat) : Reg :=
  match index with
  | 0 => s.ctrl
  | 1 => s.status
  | 2 => s.errInfo
  | 3 => s.errOffset
  | 4 => s.inLen
  | 5 => s.res.width
  | 6 => s.res.height
  | 7 => s.res.nframes
  | 8 => s.res.bpp
  | 9 => s.res.stride
  | 10 => s.res.atlasLen
  | 11 => s.res.palCount
  | 12 => s.res.palKey
  | 13 => s.res.tagCount
  | 14 => s.res.sliceCount
  | _ => 0

/-- A write of IN_LEN: bits 31:0, ignored while BUSY = 1 (10_state.md R42). -/
def writeInLen (v : Reg) (s : State) : State :=
  if busy s then s else { s with inLen := BitVec.ofNat 64 (v.toNat % 2 ^ 32) }

/-- A write of CTRL: START where bit 0 is set, else a write of FLIP (10_state.md R38). -/
def writeCtrl (v : Reg) (s : State) : Answer :=
  match decode .ctrl Table.empty (bitsOf 64 v.toNat) with
  | .ok (i, _) => exec i s
  | .error _ => .next (writeFlip (ctrlFlip v) s)

/-- A write of a host register; read-only and reserved ones ignore it (10_state.md R38, R43). -/
def writeReg (index : Nat) (v : Reg) (s : State) : Answer :=
  if index = 0 then writeCtrl v s else if index = 4 then .next (writeInLen v s) else .next s

/-- A host write of `IN`: refused while BUSY = 1 (70_reset_and_hazards.md R451); addresses end at 2^32 − 2
(00_scope.md R11). -/
def hostWriteIn (a : Nat) (b : Byte) (s : State) : Answer :=
  if busy s then .refused .hostWriteDuringLoad
  else if a < 2 ^ 32 - 1 then .next { s with inp := s.inp.write none a b }
  else .fault .noSuchAddress

/-- A host read of a result memory: refused while BUSY = 1 (R451). -/
def hostRead (v : Option HostValue) (s : State) : Answer :=
  if busy s then .refused .hostReadDuringLoad
  else match v with
    | some v => .next { s with rx := some v }
    | none => .fault .noSuchAddress

/-- Reset (R440): the reset state. The parameters and the host's pending actions are not the block's; IN and TILE have
new unspecified contents (log 14). -/
def resetBlock (s : State) : State :=
  { State.reset with cfg := s.cfg, host := s.host, inEpoch := s.inEpoch + 1, tileEpoch := s.tileEpoch + 1 }

/-- One host action, already taken off the schedule. -/
def hostAct (op : HostOp) (s : State) : Answer :=
  match op with
  | .wait => .next s
  | .writeReg index v => writeReg index v s
  | .writeIn a b => hostWriteIn a b s
  | .readReg index => .next { s with rx := some (.reg (readReg s index)) }
  | .readAtlas a => hostRead (if a < s.atlasLen then some (.byte (atlasByte s a)) else none) s
  | .readPal a => hostRead (if a < 4 * Config.palCapacity then some (.byte (palByte s (a / 4) (a % 4))) else none) s
  | .readDur i => hostRead (s.dur[i]?.map .dur) s
  | .readTag i => hostRead (s.tags[i]?.map .tag) s
  | .readSlice i => hostRead (s.slices[i]?.map .slice) s
  | .reset => .next (resetBlock s)

end Sys2Proof.Machine
end

