-- ==== Sys2Proof/Machine/Sequencer.lean ====
section
/-! DEFINITION. What the sequencer does between tokens (10_state.md R33): the loops' ends, the table builds, the placement,
the flip and the publication. No input is consumed here. -/

namespace Sys2Proof.Machine

/-- The end of the palette loop: `r.PAL_COUNT <- count` (44_container.md R354), and the chunk's end. -/
def seqPaletteEnd (s : State) : Answer := .next (endChunk { s with palCount := s.palNew })

/-- The end of the tag loop, or of a skipped chunk (44_container.md R370, R349, R345). -/
def seqChunkEnd (s : State) : Answer := .next (endChunk s)

/-- No chunk is left: `state <- FRAME_END_CHECK` (44_container.md R343, R346). -/
def seqChunksDone (s : State) : Answer := .next { s with seq := .frameEndCheck, phase := .head }

/-- FRAME_END_CHECK (44_container.md R346), then the next frame (R339). -/
def seqFrameEndCheck (s : State) : Answer :=
  if s.cur ≠ s.frameEnd then raise .frameSizeMismatch s else .next (frameLoop (s.frameIdx + 1) s)

/-- FIXED_SETUP: the fixed tables (42_inflate.md R202). -/
def seqFixedSetup (s : State) : Answer :=
  orRaise buildFixedLit s fun lit => orRaise buildFixedDist s fun dist =>
    .next { s with litTab := lit, distTab := dist, seq := .symbols, phase := .head }

/-- The CLTAB build (42_inflate.md R215), and the start of the code-length sequence (R216). DESIGN CHOICE: SEQ enters
DYN_LENS here (log 28); a build that fails leaves the old CLTAB (log 26). -/
def seqClTable (s : State) : Answer :=
  orRaise (buildTable s.clLens Config.clSyms Config.clSyms) s fun T =>
    .next { s with clTab := T, lensN := 0, seq := .dynLens, phase := .head }

/-- The literal/length and distance table build (42_inflate.md R221). DESIGN CHOICE, unsafe: a build that fails leaves both
old tables, LITTAB too where DISTTAB fails (log 26). -/
def seqBlockTables (s : State) : Answer :=
  orRaise (buildBlockTables s) s fun T =>
    .next { s with litTab := T.1, distTab := T.2, seq := .symbols, phase := .head }

/-- BLIT: the placement (44_container.md R367), then the chunk's end. -/
def seqBlit (s : State) : Answer := .next (endChunk (blit s))

/-- FLIP (45_atlas.md R384). -/
def seqFlip (s : State) : Answer := .next { flipAtlas s with seq := .done, phase := .head }

/-- DONE: publication and success (45_atlas.md R390, 60_exceptions.md R421). -/
def seqDone (s : State) : Answer := .next (publish s)

/-- ERROR: `state <- IDLE` (60_exceptions.md R405); `failEntry` passes through it within its own step (log 18). -/
def seqError (s : State) : Answer := .next { s with seq := .idle, phase := .head }

/-- The sequencer's move where no token is read. In IDLE the engine does nothing (70_reset_and_hazards.md R440). -/
def sequence (s : State) : Answer :=
  match s.seq with
  | .chunkHdr => seqChunksDone s
  | .palette => seqPaletteEnd s
  | .tags => seqChunkEnd s
  | .skip => seqChunkEnd s
  | .frameEndCheck => seqFrameEndCheck s
  | .fixedSetup => seqFixedSetup s
  | .dynCl => seqClTable s
  | .dynLens => seqBlockTables s
  | .blit => seqBlit s
  | .flip => seqFlip s
  | .done => seqDone s
  | .error => seqError s
  | .idle => .next s
  | .fileHdr | .frameHdr | .cel | .slice | .zHdr | .blkHdr | .stored | .dynHdr | .symbols | .trailer => .next s

end Sys2Proof.Machine
end

