-- ==== Sys2Proof/Machine/Engine.lean ====
section
/-! DEFINITION. One step: a host action that is due, else a token, else a move of the sequencer (log 3, log 4). -/

namespace Sys2Proof.Machine

/-- The engine's step: the token at the next place, or the sequencer's move. DESIGN CHOICE, unsafe: a token that cannot be
read moves no cursor before its failure (log 27). -/
def engineStep (s : State) : Answer :=
  match nextSite s with
  | none => sequence s
  | some site =>
    match fetch site s with
    | .error r => rejected site r (enterSite site s)
    | .ok (i, n) => exec i (pastToken site n s)

/-- One step of the machine. A pending host action other than `wait` comes first; `wait`, or no pending action, lets the
engine step. Host actions are finitely many, so the engine keeps stepping while BUSY = 1 (70_reset_and_hazards.md R456). -/
def machineStep (s : State) : Answer :=
  match s.host with
  | [] => engineStep s
  | .wait :: rest => engineStep { s with host := rest }
  | op :: rest => hostAct op { s with host := rest }

end Sys2Proof.Machine
end

