-- ==== Sys2Proof/Machine/Step.lean ====
section
/-! DEFINITION. The step, and the placing of an instruction word for it. -/

namespace Sys2Proof.Machine

/-- One step of the machine. -/
def step (s : State) : Host.Outcome State Fault Refusal := machineStep s

/-- `s` with the opcode table's word `w` where `step` fetches its next instruction (log 1, log 2). -/
def State.withFetchWord (s : State) (nbits w : Nat) : State := placeWord nbits w s

end Sys2Proof.Machine
end

