-- ==== Sys2Proof/Safety.lean ====
section
/-! DEFINITION. The terms claims use: the invariants of the machine's state, what the host can observe, and the bytes a run
of output writes. -/

namespace Sys2Proof.Safety

open Sys2Proof.Machine

/-- The byte spaces are in canonical form (log 24). -/
structure MemoryForm (s : State) : Prop where
  inp : Memory.wf none s.inp = true
  tile : Memory.wf none s.tile = true
  atlas : Memory.wf (some 0) s.atlas = true
  pal : Memory.wf (some 0) s.pal = true

/-- Every result memory is empty, every palette entry `00 00 00 00` (70_reset_and_hazards.md R442). -/
def NoResult (s : State) : Prop :=
  s.atlas = [] ∧ s.atlasLen = 0 ∧ s.pal = [] ∧ s.dur = [] ∧ s.tags = [] ∧ s.slices = []

/-- ERR_INFO, ERR_OFFSET and the result registers are 0. -/
def NoReport (s : State) : Prop := s.errInfo = 0 ∧ s.errOffset = 0 ∧ s.res = Results.zero

/-- The host registers and the sequencer agree (10_state.md R33, R38 to R43; 60_exceptions.md R405, R421, R422): reserved
bits are 0, STATUS is one of its four legal combinations, SEQ is IDLE exactly while BUSY = 0, and what each status
promises of the other host-visible state holds. -/
structure HostForm (s : State) : Prop where
  ctrl : s.ctrl = 0 ∨ s.ctrl = 2
  status : s.status = 0 ∨ s.status = 1 ∨ s.status = 2 ∨ s.status = 6
  idle : s.seq = .idle ↔ busy s = false
  rests : s.seq ≠ .error
  inLen : s.inLen.toNat < 2 ^ 32
  fresh : s.status = 0 → NoReport s ∧ NoResult s
  running : s.status = 1 → NoReport s
  success : s.status = 2 → s.errInfo = 0 ∧ s.errOffset = 0
  failure : s.status = 6 → (∃ c : Cause, s.errInfo = errInfoWord c) ∧ s.res = Results.zero ∧ NoResult s

/-- A table that nothing has written, or that `prepare` and `finalize` built over `n` symbols (41_huffman.md R182). -/
def TableBuilt (n : Nat) (T : Table) : Prop :=
  T = Table.empty ∨ ∃ (lengths : List Nat) (numRead : Nat), buildTable lengths numRead n = .ok T

/-- Sequencer states inside a frame. -/
def inFrame : Seq → Bool
  | .idle | .fileHdr | .flip | .done | .error => false
  | .frameHdr | .chunkHdr | .palette | .cel | .tags | .slice | .skip | .frameEndCheck | .zHdr | .blkHdr | .stored
  | .fixedSetup | .dynHdr | .dynCl | .dynLens | .symbols | .trailer | .blit => true

/-- Sequencer states in which a cel's stream is read or placed. -/
def inStream : Seq → Bool
  | .idle | .fileHdr | .flip | .done | .error | .frameHdr | .chunkHdr | .palette | .cel | .tags | .slice | .skip
  | .frameEndCheck => false
  | .zHdr | .blkHdr | .stored | .fixedSetup | .dynHdr | .dynCl | .dynLens | .symbols | .trailer | .blit => true

/-- Sequencer states between a chunk's header and its end, where CHUNK_END is the current chunk's. -/
def inChunk (seq : Seq) (phase : Phase) : Bool :=
  match seq with
  | .chunkHdr => phase == .tail
  | .palette | .cel | .tags | .slice | .skip => true
  | .zHdr | .blkHdr | .stored | .fixedSetup | .dynHdr | .dynCl | .dynLens | .symbols | .trailer | .blit => true
  | .idle | .fileHdr | .frameHdr | .frameEndCheck | .flip | .done | .error => false

/-- Every datapath register holds a value of its width in 10_state.md R31 and R44, the bit cursor stays in the reader's
range (R34), CUR in the file, the frame and the chunk being walked (R35), the output position in the tile (42_inflate.md
R207), and the tables are those of their alphabets (R45). -/
structure RegistersFit (s : State) : Prop where
  brRange : s.brStart ≤ s.brEnd ∧ s.brEnd < 2 ^ 32
  brPos : s.brPos ≤ 8 * (s.brEnd - s.brStart)
  outPos : s.outPos ≤ s.outCap
  outCap : s.outCap < 2 ^ 64
  hlit : s.hlit ≤ 288
  hdist : s.hdist ≤ 32
  hclen : s.hclen ≤ 19
  clLens : s.clLens.length = 19 ∧ ∀ v ∈ s.clLens, v ≤ 7
  lens : s.lens.length = 320 ∧ ∀ v ∈ s.lens, v ≤ 15
  adler : s.adlerA < 65521 ∧ s.adlerB < 65521
  cur : s.cur < 2 ^ 32
  curInFile : inFrame s.seq = true → s.cur ≤ s.fileSize
  curInFrame : inFrame s.seq = true → s.seq ≠ .frameHdr → s.cur ≤ s.frameEnd ∧ s.frameEnd ≤ s.fileSize
  curInChunk : inChunk s.seq s.phase = true → s.cur ≤ s.chunkEnd ∧ s.chunkEnd ≤ s.frameEnd
  fileSize : s.fileSize < 2 ^ 32
  nframes : s.nframes < 2 ^ 16
  canvas : s.width < 2 ^ 16 ∧ s.height < 2 ^ 16
  depth : s.depth < 2 ^ 16 ∧ s.bpp < 2 ^ 3
  frameIdx : s.frameIdx < 2 ^ 16
  frame : s.frameStart < 2 ^ 32 ∧ s.frameEnd < 2 ^ 32
  chunksLeft : s.chunksLeft < 2 ^ 32
  chunk : s.chunkStart < 2 ^ 32 ∧ s.chunkEnd < 2 ^ 32
  celOffset : -2 ^ 15 ≤ s.celX ∧ s.celX < 2 ^ 15 ∧ -2 ^ 15 ≤ s.celY ∧ s.celY < 2 ^ 15
  celSize : s.celW < 2 ^ 16 ∧ s.celH < 2 ^ 16
  palCount : s.palNew ≤ 256 ∧ s.palCount ≤ 256
  errOffset : s.errOffset.toNat < 2 ^ 32
  tables : TableBuilt 288 s.litTab ∧ TableBuilt 32 s.distTab ∧ TableBuilt 19 s.clTab

/-- Where the bytes of the tile and the atlas may stand (20_memory.md R71, R72; 45_atlas.md R382): the stream's output is
the tile's bytes below OUT_POS, the atlas is as large as the header says, and a cel lies on the canvas. -/
structure AtlasForm (s : State) : Prop where
  tileWritten : ∀ a, (∃ b, s.tile.find a = some b) ↔ a < s.outPos
  atlasListed : ∀ a b, s.atlas.find a = some b → a < s.atlasLen
  atlasLen : inFrame s.seq = true ∨ s.seq = .flip ∨ s.seq = .done → s.atlasLen = atlasSize s
  bpp : inFrame s.seq = true → s.bpp = 1 ∨ s.bpp = 4
  frame : inFrame s.seq = true → s.frameIdx < s.nframes ∧ s.dur.length = s.nframes
  offset : s.seq = .cel ∨ inStream s.seq = true → 0 ≤ s.celX ∧ 0 ≤ s.celY
  canvas : inStream s.seq = true → s.celX + s.celW ≤ s.width ∧ s.celY + s.celH ≤ s.height
  capacity : inStream s.seq = true → s.outCap = s.celW * s.celH * s.bpp
  full : s.seq = .blit → s.outPos = s.outCap

/-! ## Tokens by what they carry -/

/-- The match length of a length symbol, from the table of 30_encoding.md R118. -/
def lengthOf : Instr → Option Nat
  | .len257 => some 3
  | .len258 => some 4
  | .len259 => some 5
  | .len260 => some 6
  | .len261 => some 7
  | .len262 => some 8
  | .len263 => some 9
  | .len264 => some 10
  | .len265 e => some (11 + e.toNat)
  | .len266 e => some (13 + e.toNat)
  | .len267 e => some (15 + e.toNat)
  | .len268 e => some (17 + e.toNat)
  | .len269 e => some (19 + e.toNat)
  | .len270 e => some (23 + e.toNat)
  | .len271 e => some (27 + e.toNat)
  | .len272 e => some (31 + e.toNat)
  | .len273 e => some (35 + e.toNat)
  | .len274 e => some (43 + e.toNat)
  | .len275 e => some (51 + e.toNat)
  | .len276 e => some (59 + e.toNat)
  | .len277 e => some (67 + e.toNat)
  | .len278 e => some (83 + e.toNat)
  | .len279 e => some (99 + e.toNat)
  | .len280 e => some (115 + e.toNat)
  | .len281 e => some (131 + e.toNat)
  | .len282 e => some (163 + e.toNat)
  | .len283 e => some (195 + e.toNat)
  | .len284 e => some (227 + e.toNat)
  | .len285 => some 258
  | _ => none

/-- The match distance of a distance symbol, from the table of 30_encoding.md R119. -/
def distanceOf : Instr → Option Nat
  | .dist0 => some 1
  | .dist1 => some 2
  | .dist2 => some 3
  | .dist3 => some 4
  | .dist4 e => some (5 + e.toNat)
  | .dist5 e => some (7 + e.toNat)
  | .dist6 e => some (9 + e.toNat)
  | .dist7 e => some (13 + e.toNat)
  | .dist8 e => some (17 + e.toNat)
  | .dist9 e => some (25 + e.toNat)
  | .dist10 e => some (33 + e.toNat)
  | .dist11 e => some (49 + e.toNat)
  | .dist12 e => some (65 + e.toNat)
  | .dist13 e => some (97 + e.toNat)
  | .dist14 e => some (129 + e.toNat)
  | .dist15 e => some (193 + e.toNat)
  | .dist16 e => some (257 + e.toNat)
  | .dist17 e => some (385 + e.toNat)
  | .dist18 e => some (513 + e.toNat)
  | .dist19 e => some (769 + e.toNat)
  | .dist20 e => some (1025 + e.toNat)
  | .dist21 e => some (1537 + e.toNat)
  | .dist22 e => some (2049 + e.toNat)
  | .dist23 e => some (3073 + e.toNat)
  | .dist24 e => some (4097 + e.toNat)
  | .dist25 e => some (6145 + e.toNat)
  | .dist26 e => some (8193 + e.toNat)
  | .dist27 e => some (12289 + e.toNat)
  | .dist28 e => some (16385 + e.toNat)
  | .dist29 e => some (24577 + e.toNat)
  | _ => none

/-- The literal code length of a code-length symbol 0 to 15 (30_encoding.md R117). -/
def codeLengthOf : Instr → Option Nat
  | .clLit0 => some 0
  | .clLit1 => some 1
  | .clLit2 => some 2
  | .clLit3 => some 3
  | .clLit4 => some 4
  | .clLit5 => some 5
  | .clLit6 => some 6
  | .clLit7 => some 7
  | .clLit8 => some 8
  | .clLit9 => some 9
  | .clLit10 => some 10
  | .clLit11 => some 11
  | .clLit12 => some 12
  | .clLit13 => some 13
  | .clLit14 => some 14
  | .clLit15 => some 15
  | _ => none

/-- The symbol a token's codeword stands for, in its alphabet (30_encoding.md R115 to R117). -/
def symbolOf : Instr → Option Nat
  | .clLit0 => some 0
  | .clLit1 => some 1
  | .clLit2 => some 2
  | .clLit3 => some 3
  | .clLit4 => some 4
  | .clLit5 => some 5
  | .clLit6 => some 6
  | .clLit7 => some 7
  | .clLit8 => some 8
  | .clLit9 => some 9
  | .clLit10 => some 10
  | .clLit11 => some 11
  | .clLit12 => some 12
  | .clLit13 => some 13
  | .clLit14 => some 14
  | .clLit15 => some 15
  | .clRep16 _ => some 16
  | .clZero17 _ => some 17
  | .clZero18 _ => some 18
  | .lit b => some b.toNat
  | .eob => some 256
  | .len257 => some 257
  | .len258 => some 258
  | .len259 => some 259
  | .len260 => some 260
  | .len261 => some 261
  | .len262 => some 262
  | .len263 => some 263
  | .len264 => some 264
  | .len265 _ => some 265
  | .len266 _ => some 266
  | .len267 _ => some 267
  | .len268 _ => some 268
  | .len269 _ => some 269
  | .len270 _ => some 270
  | .len271 _ => some 271
  | .len272 _ => some 272
  | .len273 _ => some 273
  | .len274 _ => some 274
  | .len275 _ => some 275
  | .len276 _ => some 276
  | .len277 _ => some 277
  | .len278 _ => some 278
  | .len279 _ => some 279
  | .len280 _ => some 280
  | .len281 _ => some 281
  | .len282 _ => some 282
  | .len283 _ => some 283
  | .len284 _ => some 284
  | .len285 => some 285
  | .lenInvalid sym => some sym.toNat
  | .dist0 => some 0
  | .dist1 => some 1
  | .dist2 => some 2
  | .dist3 => some 3
  | .dist4 _ => some 4
  | .dist5 _ => some 5
  | .dist6 _ => some 6
  | .dist7 _ => some 7
  | .dist8 _ => some 8
  | .dist9 _ => some 9
  | .dist10 _ => some 10
  | .dist11 _ => some 11
  | .dist12 _ => some 12
  | .dist13 _ => some 13
  | .dist14 _ => some 14
  | .dist15 _ => some 15
  | .dist16 _ => some 16
  | .dist17 _ => some 17
  | .dist18 _ => some 18
  | .dist19 _ => some 19
  | .dist20 _ => some 20
  | .dist21 _ => some 21
  | .dist22 _ => some 22
  | .dist23 _ => some 23
  | .dist24 _ => some 24
  | .dist25 _ => some 25
  | .dist26 _ => some 26
  | .dist27 _ => some 27
  | .dist28 _ => some 28
  | .dist29 _ => some 29
  | .distInvalid sym => some sym.toNat
  | _ => none

/-- The number of symbols of a place's alphabet (30_encoding.md R114); 0 where no symbol is read. -/
def alphabetSize : Site → Nat
  | .clSym _ => 19
  | .litSym => 288
  | .distSym => 32
  | _ => 0

/-! ## Bytes and bits of the input -/

/-- `u16le(a)` (20_memory.md R78). -/
def u16le (s : State) (a : Nat) : Nat := (inByte s a).toNat + 256 * (inByte s (a + 1)).toNat

/-- `u32le(a)` (20_memory.md R78). -/
def u32le (s : State) (a : Nat) : Nat :=
  (inByte s a).toNat + 256 * (inByte s (a + 1)).toNat + 256 ^ 2 * (inByte s (a + 2)).toNat +
    256 ^ 3 * (inByte s (a + 3)).toNat

/-- The value of the `n` bits of the reader's range from bit `p` on, `Σ bit(p + k) · 2^k` (00_scope.md R15). -/
def streamField (s : State) (p n : Nat) : Nat := ∑ k ∈ Finset.range n, (streamBit s (p + k)).toNat * 2 ^ k

/-- Repeated decoding of symbols (41_huffman.md R178). -/
def decodeAll (T : Table) : Nat → Bits → Except Reject (List Nat × Bits)
  | 0, bs => .ok ([], bs)
  | n + 1, bs =>
    match decodeSymbol T bs with
    | .error r => .error r
    | .ok (sym, rest) => (decodeAll T n rest).map fun p => (sym :: p.1, p.2)

/-! ## Outcomes -/

/-- The answer `o` to a step from `s` is the failure with this cause and this ERR_OFFSET (60_exceptions.md R405): no fault,
a next state that reports it, holds no result, and keeps what the host wrote. -/
def FailsWith (c : Cause) (offset : Nat) (s : State) (o : Answer) : Prop :=
  ∃ t, o = .next t ∧ t.errInfo = BitVec.ofNat 64 (c.code * 256 + c.cls.code) ∧ t.errOffset = BitVec.ofNat 64 offset ∧
    t.status = 6 ∧ t.seq = .idle ∧ NoResult t ∧ t.res = s.res ∧ t.ctrl = s.ctrl ∧ t.inLen = s.inLen ∧ t.inp = s.inp ∧
    t.inEpoch = s.inEpoch ∧ t.host = s.host ∧ t.rx = s.rx ∧ t.cfg = s.cfg

/-- The table of the reset state (70_reset_and_hazards.md R440); what it calls unspecified is left open. -/
structure AtReset (s : State) : Prop where
  ctrl : s.ctrl = 0
  status : s.status = 0
  report : s.errInfo = 0 ∧ s.errOffset = 0
  inLen : s.inLen = 0
  results : ∀ k, 5 ≤ k → k ≤ 14 → readReg s k = 0
  seq : s.seq = .idle
  atlas : s.atlasLen = 0 ∧ s.atlas = []
  lists : s.dur = [] ∧ s.tags = [] ∧ s.slices = []
  pal : ∀ k j, k < 256 → j < 4 → palByte s k j = 0

/-- What the host can read (60_exceptions.md R422, R423): the registers it cannot write, and the result memories. -/
structure Observed where
  status : Reg
  errInfo : Reg
  errOffset : Reg
  res : Results
  atlas : Memory
  atlasLen : Nat
  pal : Memory
  dur : List Half
  tags : List Tag
  slices : List Slice
deriving DecidableEq, Repr

/-- The host's view of a state. -/
def observe (s : State) : Observed :=
  { status := s.status, errInfo := s.errInfo, errOffset := s.errOffset, res := s.res
    atlas := s.atlas, atlasLen := s.atlasLen, pal := s.pal, dur := s.dur, tags := s.tags, slices := s.slices }

/-- Two states offer the same input to a load (45_atlas.md R387): IN_LEN, the bytes below it, FLIP and the parameters. -/
def SameInput (s t : State) : Prop :=
  s.cfg = t.cfg ∧ s.inLen = t.inLen ∧ ctrlFlip s.ctrl = ctrlFlip t.ctrl ∧ ∀ a < s.inLen.toNat, inByte s a = inByte t a

/-- A sequence of bytes put into the tile one after another. -/
def putAll : List Byte → State → State
  | [], s => s
  | b :: bs, s => putAll bs (put b s)

/-- The bytes a match of `len` bytes at distance `dist` writes (42_inflate.md R228): the last `dist` bytes of the output,
over and over. -/
def matchBytes (dist len : Nat) (s : State) : List Byte :=
  (List.range len).map fun k => tileByte s (s.outPos - dist + k % dist)

/-- The bytes a stored copy of `len` bytes writes (42_inflate.md R210): those at the reader's position. -/
def storedBytes (len : Nat) (s : State) : List Byte :=
  (List.range len).map fun k => inByte s (s.brStart + s.brPos / 8 + k)

/-- A byte of the atlas lies in the rectangle of the current cel (45_atlas.md R381, R382): it is byte `c` of the tile's
row `row`. -/
def InRectangle (s : State) (a row c : Nat) : Prop :=
  row < s.celH ∧ c < s.celW * s.bpp ∧
    a = (s.celY.toNat + row) * stride s + (s.frameIdx * s.width + s.celX.toNat) * s.bpp + c

end Sys2Proof.Safety
end

