-- ==== Sys2Proof/Certificates/Slice0/Obligations.lean ====
section
/-! DEFINITION. The statements for the provers: what each token, operation and step does by the rules of spec/, the
invariants of the machine, and the agreement of decoder and encoder. -/

open Sys2Proof Sys2Proof.Machine Sys2Proof.Safety

/-! ## The host's side -/

/-- R440, R415: the reset state holds the reset table, the engine then does nothing until START, an idle block keeps every
register and result memory, and a reset at any time leaves the table. The schedule of host actions is the model's
(log 3). -/
def Obligations.ResetLeavesTheTable : Prop :=
  AtReset State.reset ∧
  (∀ s : State, s.seq = .idle → s.host = [] → step s = .next s) ∧
  (∀ (s : State) (rest : List HostOp), s.host = .reset :: rest → ∃ t, step s = .next t ∧ AtReset t)

/-- R420, R444: START while BUSY = 0, START while BUSY = 1 (R38), the write of CTRL that is a START, a FLIP write that takes
effect on the load that a later write starts, and the example with IN_LEN = 0. The list of pending host actions (log 3), and
that bit 1 = 0 of a START write leaves FLIP as it is (log 25), are the model's choices. -/
def Obligations.StartBeginsLoad : Prop :=
  (∀ (s : State) (flip : Bool), busy s = false →
    exec (.start flip) s = .next { s with
      ctrl := if flip || s.ctrl.getLsbD 1 then 2 else 0, flipL := flip || s.ctrl.getLsbD 1, status := 1, errInfo := 0, errOffset := 0, res := Results.zero
      atlas := [], atlasLen := 0, dur := [], tags := [], slices := [], pal := [], seq := .fileHdr, phase := .head }) ∧
  (∀ (s : State) (flip : Bool), busy s = true →
    exec (.start flip) s = .next { s with ctrl := if flip || s.ctrl.getLsbD 1 then 2 else 0 }) ∧
  (∀ (s : State) (v : Reg) (rest : List HostOp), s.host = .writeReg 0 v :: rest → v.getLsbD 0 = true →
    step s = exec (.start (v.getLsbD 1)) { s with host := rest }) ∧
  (∀ (s : State) (rest : List HostOp), s.host = .writeReg 0 2 :: .writeReg 0 1 :: rest → busy s = false →
    ∃ t u, step s = .next t ∧ step t = .next u ∧ u.flipL = true ∧ u.ctrl = 2 ∧ u.status = 1 ∧ u.seq = .fileHdr) ∧
  (∀ (s : State) (v : Reg), s.host = [.writeReg 0 v] → v.getLsbD 0 = true → busy s = false → s.inLen = 0 →
    ∃ t u, step s = .next t ∧ step t = .next u ∧ u.errInfo = 0x1001 ∧ u.errOffset = 0 ∧ u.status = 6)

/-- R38, R42: a write of CTRL without START, of IN_LEN, and of every other index; IN_LEN reads what was written and is 0
after reset. -/
def Obligations.HostRegisterWrites : Prop :=
  State.reset.inLen = 0 ∧ (∀ s : State, readReg s 4 = s.inLen) ∧
  ∀ (s : State) (index : Nat) (v : Reg) (rest : List HostOp), s.host = .writeReg index v :: rest →
    (index = 0 → v.getLsbD 0 = false →
      step s = .next { s with host := rest, ctrl := if v.getLsbD 1 then 2 else 0 }) ∧
    (index = 4 → busy s = true → step s = .next { s with host := rest }) ∧
    (index = 4 → busy s = false → ∃ t, step s = .next t ∧ t = { s with host := rest, inLen := t.inLen } ∧
      t.inLen.toNat = v.toNat % 2 ^ 32) ∧
    (index ≠ 0 → index ≠ 4 → step s = .next { s with host := rest })

/-- R422: a register read changes nothing of the block; what each index reads; what reads 0 during a load; result memories
are not read during a load. The read value appears in `rx` (log 3). -/
def Obligations.HostRegisterReads : Prop :=
  (∀ (s : State) (index : Nat) (rest : List HostOp), s.host = .readReg index :: rest →
    step s = .next { s with host := rest, rx := some (.reg (readReg s index)) }) ∧
  (∀ s : State, readReg s 0 = s.ctrl ∧ readReg s 1 = s.status ∧ readReg s 2 = s.errInfo ∧ readReg s 3 = s.errOffset ∧
    readReg s 4 = s.inLen ∧ readReg s 5 = s.res.width ∧ readReg s 6 = s.res.height ∧ readReg s 7 = s.res.nframes ∧
    readReg s 8 = s.res.bpp ∧ readReg s 9 = s.res.stride ∧ readReg s 10 = s.res.atlasLen ∧
    readReg s 11 = s.res.palCount ∧ readReg s 12 = s.res.palKey ∧ readReg s 13 = s.res.tagCount ∧
    readReg s 14 = s.res.sliceCount ∧ ∀ k, 15 ≤ k → readReg s k = 0) ∧
  (∀ s : State, HostForm s → busy s = true →
    readReg s 2 = 0 ∧ readReg s 3 = 0 ∧ ∀ k, 5 ≤ k → k ≤ 14 → readReg s k = 0) ∧
  (∀ (s : State) (op : HostOp) (rest : List HostOp), s.host = op :: rest → busy s = true →
    (∃ a, op = .readAtlas a ∨ op = .readPal a ∨ op = .readDur a ∨ op = .readTag a ∨ op = .readSlice a) →
    step s = .refused .hostReadDuringLoad)

/-- R451: the host's accesses while BUSY = 1, each as an action of the model's schedule (log 3). That bit 1 = 0 of a
START write leaves FLIP as it is is the model's choice (log 25). -/
def Obligations.HostAccessDuringLoad : Prop :=
  ∀ (s : State) (op : HostOp) (rest : List HostOp), s.host = op :: rest → busy s = true →
    (∀ a b, op = .writeIn a b → step s = .refused .hostWriteDuringLoad) ∧
    (∀ a, op = .readAtlas a ∨ op = .readPal a ∨ op = .readDur a ∨ op = .readTag a ∨ op = .readSlice a →
      step s = .refused .hostReadDuringLoad) ∧
    (∀ v, op = .writeReg 4 v → step s = .next { s with host := rest }) ∧
    (∀ v, op = .writeReg 0 v → step s = .next { s with
      host := rest, ctrl := if v.getLsbD 1 || (v.getLsbD 0 && s.ctrl.getLsbD 1) then 2 else 0 }) ∧
    (∀ k, op = .readReg k → step s = .next { s with host := rest, rx := some (.reg (readReg s k)) })

/-- R423, with the model's schedule (log 3) and its fault outside a space (log 13): the host's accesses while BUSY = 0. A
write of IN changes that byte and no other. -/
def Obligations.HostAccessWhenIdle : Prop :=
  ∀ (s : State) (op : HostOp) (rest : List HostOp), MemoryForm s → s.host = op :: rest → busy s = false →
    (∀ a b, op = .writeIn a b → a < 2 ^ 32 - 1 → ∃ t, step s = .next t ∧ t = { s with host := rest, inp := t.inp } ∧
      inByte t a = b ∧ ∀ a', a' ≠ a → inByte t a' = inByte s a') ∧
    (∀ a b, op = .writeIn a b → 2 ^ 32 - 1 ≤ a → step s = .fault .noSuchAddress) ∧
    (∀ a, op = .readAtlas a → a < s.atlasLen →
      step s = .next { s with host := rest, rx := some (.byte (atlasByte s a)) }) ∧
    (∀ k j, op = .readPal (4 * k + j) → k < 256 → j < 4 →
      step s = .next { s with host := rest, rx := some (.byte (palByte s k j)) }) ∧
    (∀ i d, op = .readDur i → s.dur[i]? = some d → step s = .next { s with host := rest, rx := some (.dur d) }) ∧
    (∀ i d, op = .readTag i → s.tags[i]? = some d → step s = .next { s with host := rest, rx := some (.tag d) }) ∧
    (∀ i d, op = .readSlice i → s.slices[i]? = some d → step s = .next { s with host := rest, rx := some (.slice d) }) ∧
    (∀ a, op = .readAtlas a → s.atlasLen ≤ a → step s = .fault .noSuchAddress) ∧
    (∀ a, op = .readPal a → 1024 ≤ a → step s = .fault .noSuchAddress) ∧
    (∀ i, op = .readDur i → s.dur.length ≤ i → step s = .fault .noSuchAddress) ∧
    (∀ i, op = .readTag i → s.tags.length ≤ i → step s = .fault .noSuchAddress) ∧
    (∀ i, op = .readSlice i → s.slices.length ≤ i → step s = .fault .noSuchAddress)

/-! ## Failure -/

/-- R400, R401, R403: every cause with its code, its class and the address of ERR_OFFSET. -/
def Obligations.CauseTable : Prop :=
  (∀ s : State, ∀ row ∈ ([
    (.fileTooShort, 0x10, 1, 0), (.badFileMagic, 0x11, 1, 0), (.frameTruncated, 0x12, 1, s.frameStart),
    (.badFrameMagic, 0x13, 1, s.frameStart), (.badChunkSize, 0x14, 1, s.chunkStart),
    (.frameSizeMismatch, 0x15, 1, s.frameStart), (.chunkBodyShort, 0x16, 1, s.chunkStart),
    (.paletteRange, 0x17, 1, s.chunkStart), (.celOutOfCanvas, 0x18, 1, s.chunkStart), (.badFileSize, 0x19, 1, 0),
    (.sliceNoKeys, 0x1A, 1, s.chunkStart), (.badFrameSize, 0x1B, 1, s.frameStart), (.colorDepth, 0x20, 2, 0),
    (.celType, 0x21, 2, s.chunkStart), (.negativeCelOffset, 0x22, 2, s.chunkStart),
    (.paletteName, 0x23, 2, s.chunkStart), (.sliceFlags, 0x24, 2, s.chunkStart), (.truncated, 0x30, 3, s.chunkStart),
    (.badBlockType, 0x31, 3, s.chunkStart), (.storedLenMismatch, 0x32, 3, s.chunkStart),
    (.outputOverflow, 0x33, 3, s.chunkStart), (.badCodeLengths, 0x34, 3, s.chunkStart),
    (.oversubscribed, 0x35, 3, s.chunkStart), (.badRepeat, 0x36, 3, s.chunkStart), (.badSymbol, 0x37, 3, s.chunkStart),
    (.badLengthSymbol, 0x38, 3, s.chunkStart), (.badDistanceSymbol, 0x39, 3, s.chunkStart),
    (.distanceTooFar, 0x3A, 3, s.chunkStart), (.checksumMismatch, 0x3B, 3, s.chunkStart),
    (.shortOutput, 0x3C, 3, s.chunkStart), (.atlasTooLarge, 0x50, 5, 0), (.tileTooLarge, 0x51, 5, s.chunkStart)] :
      List (Cause × Nat × Nat × Nat)),
    row.1.code = row.2.1 ∧ row.1.cls.code = row.2.2.1 ∧ errAddress row.1 s = row.2.2.2) ∧
  (∀ c d : Cause, c.code = d.code → c = d) ∧
  (∀ (c : Cause) (s : State), ∃ t, raise c s = .next t ∧ t.errOffset = BitVec.ofNat 64 (errAddress c s))

/-- R405: the failure entry, from any state; what it does not name stays (the datapath registers keep what the load last
wrote). -/
def Obligations.FailureEntry : Prop :=
  ∀ (c : Cause) (s : State), raise c s = .next { s with
    errInfo := BitVec.ofNat 64 (c.code * 256 + c.cls.code), errOffset := BitVec.ofNat 64 (errAddress c s)
    atlas := [], atlasLen := 0, dur := [], tags := [], slices := [], pal := []
    status := 6, seq := .idle, phase := .head }

/-! ## Container tokens -/

/-- R331 to R339, R380: an accepted file header. The atlas has its size and every byte the fill value. -/
def Obligations.FileHeaderCompletes : Prop :=
  ∀ (s : State) (size : Word) (magic nframes width height depth : Half) (tkey : Byte) (b n : Nat),
    magic = s.cfg.fileMagic → 128 ≤ size.toNat → size.toNat ≤ s.inLen.toNat →
    (depth = 8 ∧ b = 1 ∨ depth = 32 ∧ b = 4) → n = width.toNat * height.toNat * nframes.toNat * b →
    (∀ cap, s.cfg.atlasCapacity = some cap → n ≤ cap) →
    ∃ t, exec (.fileHdr size magic nframes width height depth tkey) s = .next t ∧
      t = { s with
        fileSize := size.toNat, nframes := nframes.toNat, width := width.toNat, height := height.toNat
        depth := depth.toNat, tkey := tkey, bpp := b, atlas := t.atlas, atlasLen := n
        dur := List.replicate nframes.toNat 0, tags := [], slices := [], palCount := 0, cur := 128
        frameIdx := if nframes = 0 then s.frameIdx else 0
        seq := if nframes = 0 then (if s.flipL then .flip else .done) else .frameHdr, phase := .head } ∧
      (∀ a < n, atlasByte t a = if b = 1 then tkey else 0) ∧ ∀ a, n ≤ a → t.atlas.find a = none

/-- R334 to R337 in the order of R406: each failure where the checks before it pass. -/
def Obligations.FileHeaderFailures : Prop :=
  ∀ (s : State) (size : Word) (magic nframes width height depth : Half) (tkey : Byte),
    (magic ≠ s.cfg.fileMagic →
      FailsWith .badFileMagic 0 s (exec (.fileHdr size magic nframes width height depth tkey) s)) ∧
    (magic = s.cfg.fileMagic → size.toNat < 128 ∨ s.inLen.toNat < size.toNat →
      FailsWith .badFileSize 0 s (exec (.fileHdr size magic nframes width height depth tkey) s)) ∧
    (magic = s.cfg.fileMagic → 128 ≤ size.toNat → size.toNat ≤ s.inLen.toNat → depth ≠ 8 → depth ≠ 32 →
      FailsWith .colorDepth 0 s (exec (.fileHdr size magic nframes width height depth tkey) s)) ∧
    (∀ b cap, magic = s.cfg.fileMagic → 128 ≤ size.toNat → size.toNat ≤ s.inLen.toNat →
      (depth = 8 ∧ b = 1 ∨ depth = 32 ∧ b = 4) → s.cfg.atlasCapacity = some cap →
      cap < width.toNat * height.toNat * nframes.toNat * b →
      FailsWith .atlasTooLarge 0 s (exec (.fileHdr size magic nframes width height depth tkey) s))

/-- R341 to R343: a frame header at CUR, accepted, or failing with the magic checked before the size. -/
def Obligations.FrameHeader : Prop :=
  ∀ (s : State) (bytes : Word) (magic legacy duration : Half) (newCount : Word),
    (magic = 0xF1FA → 16 ≤ bytes.toNat → s.cur + bytes.toNat ≤ s.fileSize →
      exec (.frameHdr bytes magic legacy duration newCount) s = .next { s with
        frameStart := s.cur, frameEnd := s.cur + bytes.toNat, dur := s.dur.set s.frameIdx duration
        chunksLeft := if newCount = 0 then legacy.toNat else newCount.toNat, cur := s.cur + 16
        seq := .chunkHdr, phase := .head }) ∧
    (magic ≠ 0xF1FA →
      FailsWith .badFrameMagic s.cur s (exec (.frameHdr bytes magic legacy duration newCount) s)) ∧
    (magic = 0xF1FA → bytes.toNat < 16 ∨ s.fileSize < s.cur + bytes.toNat →
      FailsWith .badFrameSize s.cur s (exec (.frameHdr bytes magic legacy duration newCount) s))

/-- R344: a chunk header at CUR. The type waits for the dispatch (log 4). -/
def Obligations.ChunkHeader : Prop :=
  ∀ (s : State) (size : Word) (type : Half),
    (6 ≤ size.toNat → s.cur + size.toNat ≤ s.frameEnd →
      exec (.chunkHdr size type) s = .next { s with
        chunkStart := s.cur, chunkEnd := s.cur + size.toNat, ctype := type, seq := .chunkHdr, phase := .tail }) ∧
    (size.toNat < 6 ∨ s.frameEnd < s.cur + size.toNat →
      FailsWith .badChunkSize s.cur s (exec (.chunkHdr size type) s))

/-- R350, R351: the palette chunk's fields start the entry loop, or fail the range check. -/
def Obligations.PaletteChunk : Prop :=
  ∀ (s : State) (count first last : Word),
    (count.toNat ≤ 256 → last.toNat < 256 → first.toNat ≤ last.toNat →
      exec (.chunkPalette count first last) s = .next { s with
        palNew := count.toNat, palK := first.toNat, palLast := last.toNat, seq := .palette, phase := .head }) ∧
    (256 < count.toNat ∨ 256 ≤ last.toNat ∨ last.toNat < first.toNat →
      FailsWith .paletteRange s.chunkStart s (exec (.chunkPalette count first last) s))

/-- R352, R353: one palette entry writes the four bytes of its index and no other byte of PAL, whatever its flag bits 15:1;
with the name flag it fails. The step reads them from `IN`. -/
def Obligations.PaletteEntries : Prop :=
  (∀ (s : State) (flags : Half) (r g b a : Byte), MemoryForm s →
    ∃ t, exec (.palEntry flags r g b a) s = .next t ∧ t = { s with pal := t.pal, palK := s.palK + 1 } ∧
      palByte t s.palK 0 = r ∧ palByte t s.palK 1 = g ∧ palByte t s.palK 2 = b ∧ palByte t s.palK 3 = a ∧
      ∀ k j, j < 4 → k ≠ s.palK → palByte t k j = palByte s k j) ∧
  (∀ (s : State) (flags : Half), FailsWith .paletteName s.chunkStart s (exec (.palEntryNamed flags) s)) ∧
  (∀ s : State, s.host = [] → s.seq = .palette → s.palK ≤ s.palLast → s.q + 6 ≤ s.chunkEnd →
    (inByte s s.q).getLsbD 0 = true → FailsWith .paletteName s.chunkStart s (step s)) ∧
  (∀ s : State, MemoryForm s → s.host = [] → s.seq = .palette → s.palK ≤ s.palLast → s.q + 6 ≤ s.chunkEnd →
    (inByte s s.q).getLsbD 0 = false →
    ∃ t, step s = .next t ∧ t = { s with pal := t.pal, palK := s.palK + 1, q := s.q + 6 } ∧
      (∀ j < 4, palByte t s.palK j = inByte s (s.q + 2 + j)) ∧
      ∀ k j, j < 4 → k ≠ s.palK → palByte t k j = palByte s k j)

/-- R360, R362 to R365: the cel's offsets, its tile size and the stream's start (R300, R301), and their failures in order.
The tile's content is unspecified from the stream's start on (R71). That BFINAL, BTYPE, HLIT, HDIST, HCLEN, CL_LEN, LENS and
the three tables keep what they held before the stream's start is the model's choice (log 29). -/
def Obligations.CelTokens : Prop :=
  (∀ (s : State) (x y : Half),
    (0 ≤ x.toInt → 0 ≤ y.toInt →
      exec (.chunkCel x y) s = .next { s with celX := x.toInt, celY := y.toInt, seq := .cel, phase := .head }) ∧
    (x.toInt < 0 ∨ y.toInt < 0 → FailsWith .negativeCelOffset s.chunkStart s (exec (.chunkCel x y) s))) ∧
  (∀ (s : State) (w h : Half),
    ((∀ cap, s.cfg.tileCapacity = some cap → w.toNat * h.toNat * s.bpp ≤ cap) →
      s.celX + w.toNat ≤ s.width → s.celY + h.toNat ≤ s.height →
      ∃ t, exec (.celCompressed w h) s = .next t ∧ t = { s with
        celW := w.toNat, celH := h.toNat, brStart := s.chunkStart + 26, brEnd := s.chunkEnd, brPos := 0
        outCap := w.toNat * h.toNat * s.bpp, outPos := 0, tile := t.tile, tileEpoch := t.tileEpoch
        adlerA := 1, adlerB := 0, seq := .zHdr, phase := .head }) ∧
    (∀ cap, s.cfg.tileCapacity = some cap → cap < w.toNat * h.toNat * s.bpp →
      FailsWith .tileTooLarge s.chunkStart s (exec (.celCompressed w h) s)) ∧
    ((∀ cap, s.cfg.tileCapacity = some cap → w.toNat * h.toNat * s.bpp ≤ cap) →
      (s.width : Int) < s.celX + w.toNat ∨ (s.height : Int) < s.celY + h.toNat →
      FailsWith .celOutOfCanvas s.chunkStart s (exec (.celCompressed w h) s))) ∧
  (∀ (s : State) (type : Half), FailsWith .celType s.chunkStart s (exec (.celTypeOther type) s))

/-- R370, R371, R375 to R377: the tags chunk replaces the list, a record appends to it, a slice chunk gives its label or
fails on flags before keys, and its key appends the slice and ends the chunk (R345). -/
def Obligations.TagAndSliceTokens : Prop :=
  (∀ (s : State) (n : Half), exec (.chunkTags n) s = .next { s with
    tags := [], tagN := n.toNat, tagI := 0, seq := .tags, phase := .head }) ∧
  (∀ (s : State) (first last : Half) (label : List Byte), exec (.tagRec first last label) s = .next { s with
    tags := s.tags ++ [{ label := label, first := first, last := last }], tagI := s.tagI + 1 }) ∧
  (∀ (s : State) (nkeys : Word) (label : List Byte), nkeys ≠ 0 →
    exec (.chunkSlice nkeys 0 label) s = .next { s with sliceLabel := label, seq := .slice, phase := .head }) ∧
  (∀ (s : State) (nkeys flags : Word) (label : List Byte), flags ≠ 0 →
    FailsWith .sliceFlags s.chunkStart s (exec (.chunkSlice nkeys flags label) s)) ∧
  (∀ (s : State) (label : List Byte), FailsWith .sliceNoKeys s.chunkStart s (exec (.chunkSlice 0 0 label) s)) ∧
  (∀ (s : State) (x y w h : Word), exec (.sliceKey x y w h) s = .next { s with
    slices := s.slices ++ [{ label := s.sliceLabel, x := x.toInt, y := y.toInt, w := w, h := h }]
    cur := s.chunkEnd, chunksLeft := s.chunksLeft - 1, seq := .chunkHdr, phase := .head })

/-- R348, R349, R345: a chunk of another type is skipped by its declared size; nothing else of the machine changes but the
body cursor. -/
def Obligations.SkippedChunk : Prop :=
  (∀ (s : State) (type : Half), exec (.chunkOther type) s = .next { s with seq := .skip, phase := .head }) ∧
  (∀ s : State, s.host = [] → s.seq = .chunkHdr → s.phase = .tail → s.ctype ≠ 0x2019 → s.ctype ≠ 0x2005 →
    s.ctype ≠ 0x2018 → s.ctype ≠ 0x2022 →
    ∃ t u, step s = .next t ∧ step t = .next u ∧ u = { s with
      q := u.q, cur := s.chunkEnd, chunksLeft := s.chunksLeft - 1, seq := .chunkHdr, phase := .head })

/-- R330, R339, R343, R345, R346, R354, R370: the ends of the palette, tag, chunk and frame loops. That FRAME_IDX takes the
next index in the step that ends a frame, and keeps the last index after the last frame, is the model's reading (log 20). -/
def Obligations.LoopEnds : Prop :=
  ∀ s : State, s.host = [] →
    (s.seq = .palette → s.palLast < s.palK → step s = .next { s with
      palCount := s.palNew, cur := s.chunkEnd, chunksLeft := s.chunksLeft - 1, seq := .chunkHdr, phase := .head }) ∧
    (s.seq = .tags → s.tagN ≤ s.tagI → step s = .next { s with
      cur := s.chunkEnd, chunksLeft := s.chunksLeft - 1, seq := .chunkHdr, phase := .head }) ∧
    (s.seq = .chunkHdr → s.phase = .head → s.chunksLeft = 0 →
      step s = .next { s with seq := .frameEndCheck, phase := .head }) ∧
    (s.seq = .frameEndCheck → s.cur ≠ s.frameEnd → FailsWith .frameSizeMismatch s.frameStart s (step s)) ∧
    (s.seq = .frameEndCheck → s.cur = s.frameEnd → s.frameIdx + 1 < s.nframes →
      step s = .next { s with frameIdx := s.frameIdx + 1, seq := .frameHdr, phase := .head }) ∧
    (s.seq = .frameEndCheck → s.cur = s.frameEnd → s.nframes ≤ s.frameIdx + 1 →
      step s = .next { s with seq := if s.flipL then .flip else .done, phase := .head })

/-! ## Where the fields of a token stand -/

/-- R102 to R108, R78: which bytes of `IN` the fields of each container token are, and where its body's cursor stands after
it; every other byte of the token is ignored. -/
def Obligations.ContainerLayouts : Prop :=
  ∀ s : State, s.host = [] →
    (s.seq = .fileHdr → 128 ≤ s.inLen.toNat →
      step s = exec (.fileHdr (.ofNat 32 (u32le s 0)) (.ofNat 16 (u16le s 4)) (.ofNat 16 (u16le s 6))
        (.ofNat 16 (u16le s 8)) (.ofNat 16 (u16le s 10)) (.ofNat 16 (u16le s 12)) (inByte s 28)) s) ∧
    (s.seq = .frameHdr → s.cur + 16 ≤ s.fileSize →
      step s = exec (.frameHdr (.ofNat 32 (u32le s s.cur)) (.ofNat 16 (u16le s (s.cur + 4)))
        (.ofNat 16 (u16le s (s.cur + 6))) (.ofNat 16 (u16le s (s.cur + 8))) (.ofNat 32 (u32le s (s.cur + 12))))
        { s with frameStart := s.cur }) ∧
    (s.seq = .chunkHdr → s.phase = .head → 0 < s.chunksLeft → s.cur + 6 ≤ s.frameEnd →
      step s = exec (.chunkHdr (.ofNat 32 (u32le s s.cur)) (.ofNat 16 (u16le s (s.cur + 4))))
        { s with chunkStart := s.cur }) ∧
    (s.seq = .chunkHdr → s.phase = .tail → s.ctype = 0x2019 → s.chunkStart + 26 ≤ s.chunkEnd →
      step s = exec (.chunkPalette (.ofNat 32 (u32le s (s.chunkStart + 6))) (.ofNat 32 (u32le s (s.chunkStart + 10)))
        (.ofNat 32 (u32le s (s.chunkStart + 14)))) { s with q := s.chunkStart + 26 }) ∧
    (s.seq = .chunkHdr → s.phase = .tail → s.ctype = 0x2005 → s.chunkStart + 22 ≤ s.chunkEnd →
      step s = exec (.chunkCel (.ofNat 16 (u16le s (s.chunkStart + 8))) (.ofNat 16 (u16le s (s.chunkStart + 10))))
        { s with q := s.chunkStart + 22 }) ∧
    (s.seq = .chunkHdr → s.phase = .tail → s.ctype = 0x2018 → s.chunkStart + 16 ≤ s.chunkEnd →
      step s = exec (.chunkTags (.ofNat 16 (u16le s (s.chunkStart + 6)))) { s with q := s.chunkStart + 16 }) ∧
    (s.seq = .chunkHdr → s.phase = .tail → s.ctype = 0x2022 → u32le s (s.chunkStart + 10) = 0 →
      s.chunkStart + 20 + u16le s (s.chunkStart + 18) ≤ s.chunkEnd →
      step s = exec (.chunkSlice (.ofNat 32 (u32le s (s.chunkStart + 6))) 0
        (inBytes s (s.chunkStart + 20) (u16le s (s.chunkStart + 18))))
        { s with q := s.chunkStart + 20 + u16le s (s.chunkStart + 18) }) ∧
    (s.seq = .chunkHdr → s.phase = .tail → s.ctype = 0x2022 → u32le s (s.chunkStart + 10) ≠ 0 →
      s.chunkStart + 20 ≤ s.chunkEnd →
      step s = exec (.chunkSlice (.ofNat 32 (u32le s (s.chunkStart + 6))) (.ofNat 32 (u32le s (s.chunkStart + 10))) [])
        { s with q := s.chunkStart + 20 } ∧ FailsWith .sliceFlags s.chunkStart s (step s)) ∧
    (s.seq = .cel → s.chunkStart + 26 ≤ s.chunkEnd → u16le s (s.chunkStart + 13) = 2 →
      step s = exec (.celCompressed (.ofNat 16 (u16le s (s.chunkStart + 22)))
        (.ofNat 16 (u16le s (s.chunkStart + 24)))) s) ∧
    (s.seq = .cel → s.chunkStart + 15 ≤ s.chunkEnd → u16le s (s.chunkStart + 13) ≠ 2 →
      step s = exec (.celTypeOther (.ofNat 16 (u16le s (s.chunkStart + 13)))) s) ∧
    (s.seq = .tags → s.tagI < s.tagN → s.q + 19 + u16le s (s.q + 17) ≤ s.chunkEnd →
      step s = exec (.tagRec (.ofNat 16 (u16le s s.q)) (.ofNat 16 (u16le s (s.q + 2)))
        (inBytes s (s.q + 19) (u16le s (s.q + 17)))) { s with q := s.q + 19 + u16le s (s.q + 17) }) ∧
    (s.seq = .slice → s.q + 20 ≤ s.chunkEnd →
      step s = exec (.sliceKey (.ofNat 32 (u32le s (s.q + 4))) (.ofNat 32 (u32le s (s.q + 8)))
        (.ofNat 32 (u32le s (s.q + 12))) (.ofNat 32 (u32le s (s.q + 16)))) { s with q := s.q + 20 })

/-- R110 to R113, R80: which bits of the stream the fields of each envelope and block token are, and BR_POS after it. The
stored header and the trailer stand at the next byte boundary. -/
def Obligations.StreamLayouts : Prop :=
  ∀ s : State, s.host = [] →
    (s.seq = .zHdr → s.phase = .tail → 32 ≤ avail s →
      step s = exec (.zlibDictid (.ofNat 32 (streamField s s.brPos 32))) { s with brPos := s.brPos + 32 }) ∧
    (s.seq = .blkHdr → s.phase = .head → 3 ≤ avail s →
      step s = exec (.blkHdr (streamBit s s.brPos) (.ofNat 2 (streamField s (s.brPos + 1) 2)))
        { s with brPos := s.brPos + 3 }) ∧
    (s.seq = .blkHdr → s.phase = .tail →
      step s = exec (if s.btype = 0 then .blkStored else if s.btype = 1 then .blkFixed
        else if s.btype = 2 then .blkDynamic else .blkReserved) s) ∧
    (∀ p, s.seq = .stored → p = alignUp s.brPos → 32 ≤ avail { s with brPos := p } →
      step s = exec (.storedHdr (.ofNat 16 (streamField s p 16)) (.ofNat 16 (streamField s (p + 16) 16)))
        { s with brPos := p + 32 }) ∧
    (s.seq = .dynHdr → 14 ≤ avail s →
      step s = exec (.dynHdr (.ofNat 5 (streamField s s.brPos 5)) (.ofNat 5 (streamField s (s.brPos + 5) 5))
        (.ofNat 4 (streamField s (s.brPos + 10) 4))) { s with brPos := s.brPos + 14 }) ∧
    (s.seq = .dynCl → s.clI < s.hclen → 3 ≤ avail s →
      step s = exec (.clLen (.ofNat 3 (streamField s s.brPos 3))) { s with brPos := s.brPos + 3 }) ∧
    (∀ a, s.seq = .trailer → alignUp s.brPos = 8 * a → 32 ≤ avail { s with brPos := 8 * a } →
      step s = exec (.adler32Trailer (.ofNat 32 (bigEndian (inByte s (s.brStart + a)).toNat
        (inByte s (s.brStart + a + 1)).toNat (inByte s (s.brStart + a + 2)).toNat (inByte s (s.brStart + a + 3)).toNat)))
        { s with brPos := 8 * a + 32 })

/-- The bounds checks of R331, R340, R344, R350, R352, R360, R362, R370, R375 and the TRUNCATED causes of R200, R208, R213,
R214, R303, R305: input that ends inside a token fails with the cause and the offset the rule names. -/
def Obligations.ShortInputFails : Prop :=
  ∀ s : State, s.host = [] →
    (s.seq = .fileHdr → s.inLen.toNat < 128 → FailsWith .fileTooShort 0 s (step s)) ∧
    (s.seq = .frameHdr → s.fileSize < s.cur + 16 → FailsWith .frameTruncated s.cur s (step s)) ∧
    (s.seq = .chunkHdr → s.phase = .head → 0 < s.chunksLeft → s.frameEnd < s.cur + 6 →
      FailsWith .badChunkSize s.cur s (step s)) ∧
    (s.seq = .chunkHdr → s.phase = .tail →
      s.ctype = 0x2019 ∧ s.chunkEnd < s.chunkStart + 26 ∨ s.ctype = 0x2005 ∧ s.chunkEnd < s.chunkStart + 22 ∨
        s.ctype = 0x2018 ∧ s.chunkEnd < s.chunkStart + 16 ∨ s.ctype = 0x2022 ∧ s.chunkEnd < s.chunkStart + 20 ∨
        s.ctype = 0x2022 ∧ u32le s (s.chunkStart + 10) = 0 ∧
          s.chunkEnd < s.chunkStart + 20 + u16le s (s.chunkStart + 18) →
      FailsWith .chunkBodyShort s.chunkStart s (step s)) ∧
    (s.seq = .palette → s.palK ≤ s.palLast → s.chunkEnd < s.q + 6 →
      FailsWith .chunkBodyShort s.chunkStart s (step s)) ∧
    (s.seq = .cel → u16le s (s.chunkStart + 13) = 2 → s.chunkEnd < s.chunkStart + 26 →
      FailsWith .chunkBodyShort s.chunkStart s (step s)) ∧
    (s.seq = .tags → s.tagI < s.tagN → s.chunkEnd < s.q + 19 + u16le s (s.q + 17) →
      FailsWith .chunkBodyShort s.chunkStart s (step s)) ∧
    (s.seq = .slice → s.chunkEnd < s.q + 20 → FailsWith .chunkBodyShort s.chunkStart s (step s)) ∧
    (s.seq = .zHdr ∧ s.phase = .tail ∧ avail s < 32 ∨ s.seq = .blkHdr ∧ s.phase = .head ∧ avail s < 3 ∨
        s.seq = .stored ∧ avail (byteAlign s) < 32 ∨ s.seq = .dynHdr ∧ avail s < 14 ∨
        s.seq = .dynCl ∧ s.clI < s.hclen ∧ avail s < 3 ∨ s.seq = .trailer ∧ avail (byteAlign s) < 32 →
      FailsWith .truncated s.chunkStart s (step s))

/-! ## zlib envelope -/

/-- R302: at a stream's start the two bytes are stripped exactly when they pass the test; else nothing is consumed. -/
def Obligations.ZlibHeaderTest : Prop :=
  ∀ (s : State) (cmf flg : Byte), s.host = [] → s.seq = .zHdr → s.phase = .head → s.brPos = 0 →
    cmf = inByte s s.brStart → flg = inByte s (s.brStart + 1) →
    (s.brStart + 2 ≤ s.brEnd → (cmf.toNat * 256 + flg.toNat) % 31 = 0 → cmf.toNat / 16 ≤ 7 →
      step s = exec (.zlibHdr cmf flg) { s with brPos := 16 }) ∧
    (s.brEnd < s.brStart + 2 ∨ (cmf.toNat * 256 + flg.toNat) % 31 ≠ 0 ∨ 7 < cmf.toNat / 16 →
      step s = .next { s with seq := .blkHdr, phase := .head })

/-- R303, R305, R307, R308, R366: the header with and without FDICT, the skipped dictionary id, and the trailer's compare
and count. -/
def Obligations.ZlibTokens : Prop :=
  ∀ s : State,
    (∀ cmf flg : Byte, flg.getLsbD 5 = true →
      exec (.zlibHdr cmf flg) s = .next { s with seq := .zHdr, phase := .tail }) ∧
    (∀ cmf flg : Byte, flg.getLsbD 5 = false →
      exec (.zlibHdr cmf flg) s = .next { s with seq := .blkHdr, phase := .head }) ∧
    (∀ id : Word, exec (.zlibDictid id) s = .next { s with seq := .blkHdr, phase := .head }) ∧
    (∀ t : Word, t.toNat = s.adlerB * 65536 + s.adlerA → s.outPos = s.outCap →
      exec (.adler32Trailer t) s = .next { s with seq := .blit, phase := .head }) ∧
    (∀ t : Word, t.toNat ≠ s.adlerB * 65536 + s.adlerA →
      FailsWith .checksumMismatch s.chunkStart s (exec (.adler32Trailer t) s)) ∧
    (∀ t : Word, t.toNat = s.adlerB * 65536 + s.adlerA → s.outPos ≠ s.outCap →
      FailsWith .shortOutput s.chunkStart s (exec (.adler32Trailer t) s))

/-! ## Blocks -/

/-- R200 to R204, R213, R214: the block header and its four types, the dynamic header and a code-length field. That SEQ enters
DYN_CL with DYN_HDR (log 28), and that a field past the end of CL_ORDER, in states no run reaches, sets entry 0 (log 12), are
the model's choices. -/
def Obligations.BlockTokens : Prop :=
  ∀ s : State,
    (∀ (f : Bool) (t : BitVec 2), exec (.blkHdr f t) s = .next { s with
      bfinal := f, btype := t, seq := .blkHdr, phase := .tail }) ∧
    exec .blkStored s = .next { s with seq := .stored, phase := .head } ∧
    exec .blkFixed s = .next { s with seq := .fixedSetup, phase := .head } ∧
    exec .blkDynamic s = .next { s with seq := .dynHdr, phase := .head } ∧
    FailsWith .badBlockType s.chunkStart s (exec .blkReserved s) ∧
    (∀ (hlit hdist : BitVec 5) (hclen : BitVec 4), exec (.dynHdr hlit hdist hclen) s = .next { s with
      hlit := hlit.toNat + 257, hdist := hdist.toNat + 1, hclen := hclen.toNat + 4
      clLens := List.replicate 19 0, clI := 0, seq := .dynCl, phase := .head }) ∧
    (∀ len : BitVec 3, exec (.clLen len) s = .next { s with
      clLens := s.clLens.set
        ([16, 17, 18, 0, 8, 7, 9, 6, 10, 5, 11, 4, 12, 3, 13, 2, 14, 1, 15].getD s.clI 0) len.toNat
      clI := s.clI + 1 })

/-- R209, R210, R205: the checks of a stored block in their order, the copy of its bytes from the reader's position, and the
block's end. What `putAll` writes is `OutputRun`. -/
def Obligations.StoredBlock : Prop :=
  ∀ (s : State) (len nlen : Half),
    (nlen.toNat = 0xFFFF - len.toNat → len.toNat ≤ s.outCap - s.outPos → 8 * len.toNat ≤ avail s → s.brPos % 8 = 0 →
      exec (.storedHdr len nlen) s = .next { putAll (storedBytes len.toNat s) s with
        brPos := s.brPos + 8 * len.toNat, seq := if s.bfinal then .trailer else .blkHdr, phase := .head }) ∧
    (nlen.toNat ≠ 0xFFFF - len.toNat →
      FailsWith .storedLenMismatch s.chunkStart s (exec (.storedHdr len nlen) s)) ∧
    (nlen.toNat = 0xFFFF - len.toNat → s.outCap - s.outPos < len.toNat →
      FailsWith .outputOverflow s.chunkStart s (exec (.storedHdr len nlen) s)) ∧
    (nlen.toNat = 0xFFFF - len.toNat → len.toNat ≤ s.outCap - s.outPos → avail s < 8 * len.toNat →
      FailsWith .truncated s.chunkStart s (exec (.storedHdr len nlen) s))

/-- R217 to R220: the 16 literal lengths (`codeLengthOf` names them), and the three runs: complete, overrunning
HLIT + HDIST, and CL_REP16 with no length before it. A run changes exactly its own entries of LENS. -/
def Obligations.CodeLengthSymbols : Prop :=
  ∀ s : State,
    (∀ (i : Instr) (v : Nat), codeLengthOf i = some v →
      exec i s = .next { s with lens := s.lens.set s.lensN v, lensN := s.lensN + 1 }) ∧
    (∀ (i : Instr) (v r : Nat),
      (∃ e, i = .clRep16 e ∧ v = s.lens.getD (s.lensN - 1) 0 ∧ r = 3 + e.toNat ∧ 0 < s.lensN) ∨
        (∃ e, i = .clZero17 e ∧ v = 0 ∧ r = 3 + e.toNat) ∨ (∃ e, i = .clZero18 e ∧ v = 0 ∧ r = 11 + e.toNat) →
      (s.lensN + r ≤ s.hlit + s.hdist → s.hlit + s.hdist ≤ s.lens.length →
        ∃ t, exec i s = .next t ∧ t = { s with lens := t.lens, lensN := s.lensN + r } ∧
          t.lens.length = s.lens.length ∧
          ∀ n, t.lens.getD n 0 = if s.lensN ≤ n ∧ n < s.lensN + r then v else s.lens.getD n 0) ∧
      (s.hlit + s.hdist < s.lensN + r → FailsWith .badRepeat s.chunkStart s (exec i s))) ∧
    (∀ e, s.lensN = 0 → FailsWith .badRepeat s.chunkStart s (exec (.clRep16 e) s))

/-- R202, R215, R221: the builds of the tables between the tokens, the literal/length table checked before the distance
table. That SEQ enters DYN_LENS in the step that builds CLTAB, and SYMBOLS in the step that builds the two tables of a dynamic
block, is the model's choice (log 28). -/
def Obligations.TableBuilds : Prop :=
  ∀ s : State, s.host = [] →
    (s.seq = .fixedSetup → ∃ lit dist, buildTable fixedLitLengths 288 288 = .ok lit ∧
      buildTable fixedDistLengths 32 32 = .ok dist ∧
      step s = .next { s with litTab := lit, distTab := dist, seq := .symbols, phase := .head }) ∧
    (s.seq = .dynCl → s.hclen ≤ s.clI →
      (∀ T, buildTable s.clLens 19 19 = .ok T →
        step s = .next { s with clTab := T, lensN := 0, seq := .dynLens, phase := .head }) ∧
      (∀ c, buildTable s.clLens 19 19 = .error c → FailsWith c (errAddress c s) s (step s))) ∧
    (s.seq = .dynLens → s.hlit + s.hdist ≤ s.lensN →
      (∀ lit dist, buildTable (s.lens.take s.hlit) s.hlit 288 = .ok lit →
        buildTable ((s.lens.drop s.hlit).take s.hdist) s.hdist 32 = .ok dist →
        step s = .next { s with litTab := lit, distTab := dist, seq := .symbols, phase := .head }) ∧
      (∀ c, buildTable (s.lens.take s.hlit) s.hlit 288 = .error c → FailsWith c (errAddress c s) s (step s)) ∧
      (∀ lit c, buildTable (s.lens.take s.hlit) s.hlit 288 = .ok lit →
        buildTable ((s.lens.drop s.hlit).take s.hdist) s.hdist 32 = .error c →
        FailsWith c (errAddress c s) s (step s)))

/-- R222, R223, R205: a literal writes its byte and moves the Adler sums, or overflows; EOB ends the block. -/
def Obligations.LiteralAndEob : Prop :=
  ∀ s : State,
    (∀ b : Byte, s.outPos < s.outCap →
      ∃ t, exec (.lit b) s = .next t ∧ t = { s with
        tile := t.tile, outPos := s.outPos + 1, adlerA := (s.adlerA + b.toNat) % 65521
        adlerB := (s.adlerB + (s.adlerA + b.toNat) % 65521) % 65521 } ∧
        tileByte t s.outPos = b ∧ ∀ a, a ≠ s.outPos → t.tile.find a = s.tile.find a) ∧
    (∀ b : Byte, s.outCap ≤ s.outPos → FailsWith .outputOverflow s.chunkStart s (exec (.lit b) s)) ∧
    exec .eob s = .next { s with seq := if s.bfinal then .trailer else .blkHdr, phase := .head }

/-- R230 to R258 step 1: each of the 29 length symbols (`lengthOf` names them, from the table of R118) gives its length,
3 to 258, and the distance symbol comes next. -/
def Obligations.LengthSymbols : Prop :=
  ∀ (i : Instr) (len : Nat) (s : State), lengthOf i = some len →
    exec i s = .next { s with matchLen := len, seq := .symbols, phase := .tail } ∧ 3 ≤ len ∧ len ≤ 258

/-- R260 to R289 with R226 steps 5 and 6, R228, R453: each of the 30 distance symbols (`distanceOf` names them, from the
table of R119) has a distance of 1 to 32768 and, where the checks pass, writes the last `d` bytes of the output over and
over, `matchLen` bytes in all. What `putAll` writes is `OutputRun`. -/
def Obligations.MatchCopies : Prop :=
  ∀ (i : Instr) (d : Nat) (s : State), distanceOf i = some d →
    (1 ≤ d ∧ d ≤ 32768) ∧
    (d ≤ s.outPos → s.matchLen ≤ s.outCap - s.outPos →
      exec i s = .next { putAll (matchBytes d s.matchLen s) s with seq := .symbols, phase := .head })

/-- R227: the checks of a match, in their order. -/
def Obligations.MatchChecks : Prop :=
  ∀ (i : Instr) (d : Nat) (s : State), distanceOf i = some d →
    (s.outPos < d → FailsWith .distanceTooFar s.chunkStart s (exec i s)) ∧
    (d ≤ s.outPos → s.outCap - s.outPos < s.matchLen → FailsWith .outputOverflow s.chunkStart s (exec i s))

/-- R224, R225: the invalid symbols fail, before any extra bits: the token's bits end with the codeword; and they have
codewords in the fixed tables. -/
def Obligations.InvalidSymbols : Prop :=
  (∀ (sym : BitVec 9) (s : State), FailsWith .badLengthSymbol s.chunkStart s (exec (.lenInvalid sym) s)) ∧
  (∀ (sym : BitVec 5) (s : State), FailsWith .badDistanceSymbol s.chunkStart s (exec (.distInvalid sym) s)) ∧
  (∀ (T : Table) (bs rest : Bits) (sym : Nat), decodeSymbol T bs = .ok (sym, rest) →
    (sym = 286 ∨ sym = 287 → decode .litSym T bs = .ok (.lenInvalid (.ofNat 9 sym), rest)) ∧
    (sym = 30 ∨ sym = 31 → decode .distSym T bs = .ok (.distInvalid (.ofNat 5 sym), rest))) ∧
  fixedLitTable.codeword 286 = codeBits 8 0xC6 ∧ fixedLitTable.codeword 287 = codeBits 8 0xC7 ∧
  fixedDistTable.codeword 30 = codeBits 5 0b11110 ∧ fixedDistTable.codeword 31 = codeBits 5 0b11111

/-- The output primitive over a run of bytes (42_inflate.md, `put`): the bytes stand in the tile from OUT_POS on, no other
byte of it changes, OUT_POS moves by their number, and besides the Adler sums nothing else changes. -/
def Obligations.OutputRun : Prop :=
  ∀ (bytes : List Byte) (s : State),
    putAll bytes s = { s with
      tile := (putAll bytes s).tile, adlerA := (putAll bytes s).adlerA, adlerB := (putAll bytes s).adlerB
      outPos := s.outPos + bytes.length } ∧
    (∀ (k : Nat) (b : Byte), bytes[k]? = some b → tileByte (putAll bytes s) (s.outPos + k) = b) ∧
    (∀ a, a < s.outPos ∨ s.outPos + bytes.length ≤ a → (putAll bytes s).tile.find a = s.tile.find a)

/-- R309, R310: from the initial sums, the Adler registers after any output hold the closed forms of its bytes; the empty
output has checksum 1. -/
def Obligations.AdlerClosedForm : Prop :=
  ∀ (bytes : List Byte) (s : State), s.adlerA = 1 → s.adlerB = 0 →
    (putAll bytes s).adlerA = (1 + (bytes.map BitVec.toNat).sum) % 65521 ∧
    (putAll bytes s).adlerB =
      (bytes.length +
        ∑ k ∈ Finset.range bytes.length, (bytes.length - k) * ((bytes.map BitVec.toNat).getD k 0)) % 65521 ∧
    adlerValue (putAll bytes s).adlerA (putAll bytes s).adlerB =
      (putAll bytes s).adlerB * 65536 + (putAll bytes s).adlerA ∧
    (bytes = [] → adlerValue (putAll bytes s).adlerA (putAll bytes s).adlerB = 0x00000001)

/-! ## Micro-operations -/

/-- R153 to R156, R159: the BitReader's operations on BR_POS and on the bits of its range. That requests of more than 16 bits,
which no rule makes (R160), are answered like any other is the model's choice (log 30). -/
def Obligations.BitReaderOperations : Prop :=
  ∀ s : State,
    (∀ n, avail s < n → getBits n s = .error .truncated) ∧
    (∀ n, n ≤ avail s → getBits n s = .ok (streamField s s.brPos n, { s with brPos := s.brPos + n }) ∧
      streamField s s.brPos n < 2 ^ n) ∧
    peekBits s = (∑ k ∈ Finset.range 16, if k < avail s then (streamBit s (s.brPos + k)).toNat * 2 ^ k else 0) ∧
    (∀ n, avail s < n → consumeBits n s = .error .truncated) ∧
    (∀ n, n ≤ avail s → consumeBits n s = .ok { s with brPos := s.brPos + n }) ∧
    byteAlign s = { s with brPos := 8 * ((s.brPos + 7) / 8) } ∧
    (∀ p, s.brPos = 8 * p → 8 ≤ avail s →
      readByte s = .ok (inByte s (s.brStart + p), { s with brPos := s.brPos + 8 })) ∧
    refill s = s

/-- R170: what `prepare` refuses, and the register file it leaves. -/
def Obligations.PrepareTable : Prop :=
  ∀ (lengths : List Nat) (numRead numTotal : Nat),
    (numTotal < numRead → prepareTable lengths numRead numTotal = .error .badCodeLengths) ∧
    (numRead ≤ numTotal → (∃ k < numRead, 16 ≤ lengths.getD k 0) →
      prepareTable lengths numRead numTotal = .error .badCodeLengths) ∧
    (numRead ≤ numTotal → (∀ k < numRead, lengths.getD k 0 < 16) →
      ∃ T, prepareTable lengths numRead numTotal = .ok T ∧
        (∀ k < numTotal, T.lenAt k = if k < numRead then lengths.getD k 0 else 0) ∧
        (∀ l, 1 ≤ l → l ≤ 15 → T.countAt l = ((Finset.range numTotal).filter fun k => T.lenAt k = l).card) ∧
        T.indexAt 1 = 0 ∧ (∀ l, 1 ≤ l → l ≤ 14 → T.indexAt (l + 1) = T.indexAt l + T.countAt l) ∧
        (∀ k, k ∈ T.sorted ↔ k < numTotal ∧ 0 < T.lenAt k) ∧
        T.sorted.Pairwise fun a b => T.lenAt a < T.lenAt b ∨ T.lenAt a = T.lenAt b ∧ a < b)

/-- R171, R177: the canonical assignment: the recurrence of `first`, the codeword of each place of `sorted`, and the order
of codewords within a length and between lengths. -/
def Obligations.CanonicalCodes : Prop :=
  ∀ (lengths : List Nat) (numRead numTotal : Nat) (T : Table), buildTable lengths numRead numTotal = .ok T →
    T.firstAt 1 = 0 ∧ (∀ l, 1 ≤ l → l ≤ 14 → T.firstAt (l + 1) = 2 * (T.firstAt l + T.countAt l)) ∧
    (∀ l j, 1 ≤ l → l ≤ 15 → j < T.countAt l →
      T.lenAt (T.sorted.getD (T.indexAt l + j) 0) = l ∧ T.codeOf (T.sorted.getD (T.indexAt l + j) 0) = T.firstAt l + j) ∧
    (∀ a b, 0 < T.lenAt a → T.lenAt a = T.lenAt b → a < b → T.codeOf a < T.codeOf b) ∧
    (∀ a b, 0 < T.lenAt a → T.lenAt a < T.lenAt b → (T.codeOf a + 1) * 2 ^ (T.lenAt b - T.lenAt a) ≤ T.codeOf b)

/-- R172, R179: `finalize` fails exactly where a length's codeword space is exceeded, that is on a Kraft sum above 1; a
complete or incomplete code is accepted, and only `first` is written. -/
def Obligations.Oversubscription : Prop :=
  ∀ (lengths : List Nat) (numRead numTotal : Nat) (T F : Table), prepareTable lengths numRead numTotal = .ok T →
    F = { T with first := runningCode 0 T.count } →
    ((∃ l, 1 ≤ l ∧ l ≤ 15 ∧ 0 < T.countAt l ∧ 2 ^ l < F.firstAt l + T.countAt l) ↔
      2 ^ 15 < ∑ l ∈ Finset.range 15, T.countAt (l + 1) * 2 ^ (14 - l)) ∧
    (2 ^ 15 < ∑ l ∈ Finset.range 15, T.countAt (l + 1) * 2 ^ (14 - l) →
      finalizeTable T = .error .oversubscribed) ∧
    (∑ l ∈ Finset.range 15, T.countAt (l + 1) * 2 ^ (14 - l) ≤ 2 ^ 15 →
      ∃ U, finalizeTable T = .ok U ∧ U = { T with first := U.first })

/-- R178: no codeword of a built table is a prefix of another, and repeated decoding of the codewords of any sequence of
symbols gives back that sequence and the bits after it. -/
def Obligations.PrefixProperty : Prop :=
  ∀ (lengths : List Nat) (numRead numTotal : Nat) (T : Table), buildTable lengths numRead numTotal = .ok T →
    (∀ a b, 0 < T.lenAt a → 0 < T.lenAt b → a ≠ b → ¬ T.codeword a <+: T.codeword b) ∧
    (∀ (syms : List Nat) (rest : Bits), (∀ sym ∈ syms, 0 < T.lenAt sym) →
      decodeAll T syms.length (syms.flatMap T.codeword ++ rest) = .ok (syms, rest))

/-- R176: with any threshold up to the longest code length, the fast path gives the symbol, the consumed bits and the error
of the normative decode, on every input. -/
def Obligations.FastPathAgrees : Prop :=
  ∀ (lengths : List Nat) (numRead numTotal : Nat) (T : Table) (fastBits : Nat) (bs : Bits),
    buildTable lengths numRead numTotal = .ok T → fastBits ≤ 15 → fastDecode T fastBits bs = decodeSymbol T bs

/-- R173 to R175: a decoded symbol does not depend on the bits after its codeword; TRUNCATED is reported only with fewer
than 15 bits left and BAD_SYMBOL only with 15; a table with no used symbol never matches. -/
def Obligations.DecodeErrors : Prop :=
  (∀ (T : Table) (bs more rest : Bits) (sym : Nat), decodeSymbol T bs = .ok (sym, rest) →
    decodeSymbol T (bs ++ more) = .ok (sym, rest ++ more)) ∧
  (∀ (T : Table) (bs : Bits) (r : Reject), decodeSymbol T bs = .error r →
    r = if bs.length < 15 then .short else .badSymbol) ∧
  (∀ (lengths : List Nat) (numRead numTotal : Nat), numRead ≤ numTotal → (∀ v ∈ lengths, v = 0) →
    ∃ T, buildTable lengths numRead numTotal = .ok T ∧
      ∀ bs, decodeSymbol T bs = .error (if bs.length < 15 then .short else .badSymbol))

/-- R120, R180, R181: the fixed codewords, most significant bit first. -/
def Obligations.FixedCodewords : Prop :=
  buildFixedLit.toOption = some fixedLitTable ∧ buildFixedDist.toOption = some fixedDistTable ∧
  (∀ k < 144, fixedLitTable.codeword k = codeBits 8 (0x30 + k)) ∧
  (∀ k < 112, fixedLitTable.codeword (144 + k) = codeBits 9 (0x190 + k)) ∧
  (∀ k < 24, fixedLitTable.codeword (256 + k) = codeBits 7 k) ∧
  (∀ k < 8, fixedLitTable.codeword (280 + k) = codeBits 8 (0xC0 + k)) ∧
  (∀ k < 32, fixedDistTable.codeword k = codeBits 5 k)

/-! ## Atlas and result -/

/-- R367, R382, R383, R386: the placement copies the tile's rows into the frame's rectangle, changes no other byte of the
atlas and no byte outside the frame's band, and ends the chunk (R345). -/
def Obligations.CelPlacement : Prop :=
  ∀ s : State, MemoryForm s → AtlasForm s → s.host = [] → s.seq = .blit →
    ∃ t, step s = .next t ∧ t = { s with
        atlas := t.atlas, cur := s.chunkEnd, chunksLeft := s.chunksLeft - 1, seq := .chunkHdr, phase := .head } ∧
      (∀ a row c, InRectangle s a row c → atlasByte t a = tileByte s (row * (s.celW * s.bpp) + c)) ∧
      (∀ a, (∀ row c, ¬ InRectangle s a row c) → atlasByte t a = atlasByte s a) ∧
      (∀ a, atlasByte t a ≠ atlasByte s a →
        s.frameIdx * s.width * s.bpp ≤ a % stride s ∧ a % stride s < (s.frameIdx + 1) * s.width * s.bpp)

/-- R384, R385: the flip moves row `y` to row `HEIGHT − 1 − y` byte for byte and changes nothing else; twice, it changes
nothing; with at most one row, it changes nothing. -/
def Obligations.VerticalFlip : Prop :=
  ∀ s : State, MemoryForm s →
    (s.host = [] → s.seq = .flip → step s = .next { flipAtlas s with seq := .done, phase := .head }) ∧
    flipAtlas s = { s with atlas := (flipAtlas s).atlas } ∧
    (∀ y x, y < s.height → x < stride s →
      atlasByte (flipAtlas s) ((s.height - 1 - y) * stride s + x) = atlasByte s (y * stride s + x)) ∧
    (∀ a, s.height * stride s ≤ a → atlasByte (flipAtlas s) a = atlasByte s a) ∧
    flipAtlas (flipAtlas s) = s ∧ (s.height ≤ 1 → flipAtlas s = s)

/-- R390, R421: the publication. -/
def Obligations.Publication : Prop :=
  ∀ s : State, s.host = [] → s.seq = .done → step s = .next { s with
    res :=
      { width := .ofNat 64 s.width, height := .ofNat 64 s.height, nframes := .ofNat 64 s.nframes
        bpp := .ofNat 64 s.bpp, stride := .ofNat 64 (s.width * s.nframes * s.bpp)
        atlasLen := .ofNat 64 (s.width * s.height * s.nframes * s.bpp), palCount := .ofNat 64 s.palCount
        palKey := .ofNat 64 s.tkey.toNat, tagCount := .ofNat 64 s.tags.length
        sliceCount := .ofNat 64 s.slices.length }
    status := 2, seq := .idle, phase := .head }

/-! ## Encoding -/

/-- Decoding what the encoder writes gives back the token and the bits after it: for every well-formed token, and for a
token with a codeword, every built table of any alphabet in which its symbol has one. -/
def Obligations.DecodeEncode : Prop :=
  ∀ (i : Instr) (T : Table) (rest : Bits), i.wf = true →
    (∀ sym, symbolOf i = some sym → 0 < T.lenAt sym ∧
      ∃ (lengths : List Nat) (numRead numTotal : Nat), buildTable lengths numRead numTotal = .ok T) →
    decode (siteOf i) T (encode T i ++ rest) = .ok (i, rest)

/-- What the decoder reads is well formed, is a token of the place, and takes at least one bit, the bits after it being
left. -/
def Obligations.DecodeGivesWellFormed : Prop :=
  ∀ (site : Site) (T : Table) (bs rest : Bits) (i : Instr),
    decode site T bs = .ok (i, rest) → (∀ sym ∈ T.sorted, sym < alphabetSize site) →
    i.wf = true ∧ (siteOf i = site ∨ ∃ first, site = .clSym first ∧ siteOf i = .clSym false) ∧
      ∃ used, used ≠ [] ∧ bs = used ++ rest

/-- A few words of each family, written out from the spec's layouts, and the tokens they are: a frame header's 16 bytes
(R103), a chunk type, a zlib header's two bytes (R109), a block header's three bits (R111), a dynamic header's fourteen
(R113), a code-length field, and in the fixed tables (R120) a literal, EOB, a length with its extra bit and a distance. -/
def Obligations.DecodesSpecWords : Prop :=
  (decode .frameHdr Table.empty (bitsOfBytes [0x28, 0, 0, 0, 0xFA, 0xF1, 1, 0, 100, 0, 0, 0, 2, 0, 0, 0])).toOption =
    some (.frameHdr 40 0xF1FA 1 100 2, []) ∧
  (decode .chunkType Table.empty (bitsOfBytes [0x04, 0x20])).toOption = some (.chunkOther 0x2004, []) ∧
  (decode .zlibHdr Table.empty (bitsOfBytes [0x78, 0x9C])).toOption = some (.zlibHdr 0x78 0x9C, []) ∧
  (decode .blkHdr Table.empty [true, true, false]).toOption = some (.blkHdr true 1, []) ∧
  (decode .dynHdr Table.empty [true, false, true, true, true, true, false, true, true, true, true, true, true, true]).toOption =
    some (.dynHdr 29 29 15, []) ∧
  (decode .clLen Table.empty [true, true, false]).toOption = some (.clLen 3, []) ∧
  (decode .litSym fixedLitTable [true, false, false, true, false, false, false, true]).toOption = some (.lit 0x61, []) ∧
  (decode .litSym fixedLitTable [false, false, false, false, false, false, false]).toOption = some (.eob, []) ∧
  (decode .litSym fixedLitTable [false, false, false, true, false, false, true, true]).toOption = some (.len265 1, []) ∧
  (decode .distSym fixedDistTable [false, false, true, false, false, true]).toOption = some (.dist4 1, []) ∧
  (decode .ctrl Table.empty (true :: true :: List.replicate 62 false)).toOption = some (.start true, [])

/-! ## The machine -/

/-- Where the bits at the engine's place decode to a token, the step is `exec` of it, past its own bits; where they do not,
the step is the place's rejection; a pending `wait` lets the engine step, and any other pending host action comes
before the engine. One step per token, the schedule of host actions, and that a token that cannot be read leaves
BR_POS and its registers as they were, are the model's choices (logs 3, 4, 23, 27). -/
def Obligations.StepRunsDecoded : Prop :=
  (∀ (s : State) (site : Site) (i : Instr) (rest : Bits), s.host = [] → nextSite s = some site →
    decode site (siteTable site (enterSite site s)) (siteBits site (enterSite site s)) = .ok (i, rest) →
    step s = exec i (moveCursor site ((siteBits site (enterSite site s)).length - rest.length) (enterSite site s))) ∧
  (∀ (s : State) (site : Site) (r : Reject), s.host = [] → nextSite s = some site →
    decode site (siteTable site (enterSite site s)) (siteBits site (enterSite site s)) = .error r →
    step s = rejected site r (enterSite site s)) ∧
  (∀ (s : State) (rest : List HostOp), s.host = .wait :: rest → step s = engineStep { s with host := rest }) ∧
  (∀ (s : State) (op : HostOp) (rest : List HostOp), s.host = op :: rest → op ≠ .wait →
    step s = hostAct op { s with host := rest })

/-- With no host action pending every step is a next state, so a failure is never a fault or a refusal of the model; and no
load ever fails with BAD_CODE_LENGTHS (R170). -/
def Obligations.EngineAlwaysSteps : Prop :=
  ∀ s : State, s.host = [] → ∃ t, step s = .next t ∧
    (RegistersFit s → t.errInfo = errInfoWord .badCodeLengths → s.errInfo = errInfoWord .badCodeLengths)

/-- The invariants hold at reset; the register values the spec leaves open are the model's (logs 5, 6). -/
def Obligations.InvariantsAtReset : Prop :=
  MemoryForm State.reset ∧ HostForm State.reset ∧ RegistersFit State.reset ∧ AtlasForm State.reset

/-- Every step keeps the byte spaces in canonical form, the model's representation (log 24). -/
def Obligations.MemoryFormKept : Prop := ∀ s t : State, MemoryForm s → step s = .next t → MemoryForm t

/-- Every step keeps the host registers, STATUS and SEQ in agreement. -/
def Obligations.HostFormKept : Prop := ∀ s t : State, HostForm s → step s = .next t → HostForm t

/-- Every step keeps every datapath register in its width, BR_POS in the reader's range (R34) and CUR in the file, the frame
and the chunk being walked (R35); and within the walk of the frames CUR only increases (R35). That a failed build leaves the
old tables is the model's choice (log 26). -/
def Obligations.RegistersFitKept : Prop :=
  ∀ s t : State, RegistersFit s → step s = .next t →
    RegistersFit t ∧ (inFrame s.seq = true → inFrame t.seq = true → s.cur ≤ t.cur)

/-- Every step keeps the tile's and the atlas's bytes where they may stand. -/
def Obligations.AtlasFormKept : Prop :=
  ∀ s t : State, MemoryForm s → HostForm s → RegistersFit s → AtlasForm s → step s = .next t → AtlasForm t

/-- R71, R387: no step's outcome depends on the unspecified content of TILE: the free values of log 8 are never read. -/
def Obligations.TileDrawUnused : Prop :=
  ∀ (s t : State) (e : Nat), AtlasForm s → step s = .next t →
    ∃ e', step { s with tileEpoch := e } = .next { t with tileEpoch := e' }

/-- R455, R456: the engine keeps stepping while BUSY = 1, and every load ends, with success or a failure, whatever the state
it is in and whatever waits, register reads and register writes the host has pending (the schedule of log 3). -/
def Obligations.LoadTerminates : Prop :=
  ∀ s : State, (∀ op ∈ s.host, op = .wait ∨ (∃ k, op = .readReg k) ∨ ∃ k v, op = .writeReg k v) → HostForm s →
    busy s = true →
    ∃ (k : Nat) (t : State), Sys2Proof.core.run k s = .next t ∧ t.seq = .idle ∧ (t.status = 2 ∨ t.status = 6)

/-- R387, R424, R441: two loads of the same input, from any two idle states, show the host the same at every step and the
same result: nothing that reset, an earlier load or the host left elsewhere reaches it. -/
def Obligations.LoadIsFunctionOfInput : Prop :=
  ∀ (s t : State) (k : Nat), HostForm s → HostForm t → RegistersFit s → RegistersFit t → busy s = false →
    busy t = false → s.host = [] → t.host = [] → SameInput s t →
    ∃ s' t' : State, Sys2Proof.core.run k (startLoad s) = .next s' ∧ Sys2Proof.core.run k (startLoad t) = .next t' ∧
      observe s' = observe t'

/-! ## The step at a symbol's place -/

/-- R216, R226, R229: at each of the three symbol places the step decodes with the place's own table from the bits at
BR_POS, reads the symbol's extra bits after its codeword, runs the symbol's token and moves BR_POS past both. The rows of
the length and distance codes (R118, R119) are `lengthCodes` and `distanceCodes`: symbol, extra bits, base. -/
def Obligations.SymbolPlaces : Prop :=
  ∀ (s : State) (sym p : Nat) (rest : Bits), s.host = [] → p = s.brPos + (avail s - rest.length) →
    (s.seq = .dynLens → s.lensN < s.hlit + s.hdist → decodeSymbol s.clTab (bitStream s) = .ok (sym, rest) →
      (sym ≤ 15 → ∃ i, codeLengthOf i = some sym ∧ step s = exec i { s with brPos := p }) ∧
      (sym = 16 → s.lensN = 0 → FailsWith .badRepeat s.chunkStart s (step s)) ∧
      (sym = 16 → 0 < s.lensN → 2 ≤ rest.length →
        step s = exec (.clRep16 (.ofNat 2 (streamField s p 2))) { s with brPos := p + 2 }) ∧
      (sym = 17 → 3 ≤ rest.length →
        step s = exec (.clZero17 (.ofNat 3 (streamField s p 3))) { s with brPos := p + 3 }) ∧
      (sym = 18 → 7 ≤ rest.length →
        step s = exec (.clZero18 (.ofNat 7 (streamField s p 7))) { s with brPos := p + 7 })) ∧
    (s.seq = .symbols → s.phase = .head → decodeSymbol s.litTab (bitStream s) = .ok (sym, rest) →
      (sym < 256 → step s = exec (.lit (.ofNat 8 sym)) { s with brPos := p }) ∧
      (sym = 256 → step s = exec .eob { s with brPos := p }) ∧
      (∀ extra base, (sym, extra, base) ∈ lengthCodes → extra ≤ rest.length →
        ∃ i, symbolOf i = some sym ∧ lengthOf i = some (base + streamField s p extra) ∧
          step s = exec i { s with brPos := p + extra }) ∧
      (sym = 286 ∨ sym = 287 → step s = exec (.lenInvalid (.ofNat 9 sym)) { s with brPos := p })) ∧
    (s.seq = .symbols → s.phase = .tail → decodeSymbol s.distTab (bitStream s) = .ok (sym, rest) →
      (∀ extra base, (sym, extra, base) ∈ distanceCodes → extra ≤ rest.length →
        ∃ i, symbolOf i = some sym ∧ distanceOf i = some (base + streamField s p extra) ∧
          step s = exec i { s with brPos := p + extra }) ∧
      (sym = 30 ∨ sym = 31 → step s = exec (.distInvalid (.ofNat 5 sym)) { s with brPos := p }))

/-- R173, R174, R218 to R220, R226: at each symbol place the step fails with TRUNCATED where the bits end before a codeword
matches, with BAD_SYMBOL where 15 bits match none, and with TRUNCATED where the symbol's extra bits are cut off, at
CHUNK_START each time. -/
def Obligations.SymbolFailures : Prop :=
  ∀ (s : State) (T : Table), s.host = [] →
    s.seq = .dynLens ∧ s.lensN < s.hlit + s.hdist ∧ T = s.clTab ∨ s.seq = .symbols ∧ s.phase = .head ∧ T = s.litTab ∨
      s.seq = .symbols ∧ s.phase = .tail ∧ T = s.distTab →
    (∀ r, decodeSymbol T (bitStream s) = .error r →
      (avail s < 15 → FailsWith .truncated s.chunkStart s (step s)) ∧
      (15 ≤ avail s → FailsWith .badSymbol s.chunkStart s (step s))) ∧
    (∀ sym rest, decodeSymbol T (bitStream s) = .ok (sym, rest) →
      (s.seq = .dynLens →
        sym = 16 ∧ 0 < s.lensN ∧ rest.length < 2 ∨ sym = 17 ∧ rest.length < 3 ∨ sym = 18 ∧ rest.length < 7 →
        FailsWith .truncated s.chunkStart s (step s)) ∧
      (s.seq = .symbols → s.phase = .head → ∀ extra base, (sym, extra, base) ∈ lengthCodes → rest.length < extra →
        FailsWith .truncated s.chunkStart s (step s)) ∧
      (s.seq = .symbols → s.phase = .tail → ∀ extra base, (sym, extra, base) ∈ distanceCodes → rest.length < extra →
        FailsWith .truncated s.chunkStart s (step s)))
end

