-- ==== Sys2Proof/Laws/Bits.lean ====
section
/-! SUPPORT. The laws of bit and byte fields: reading what was written, what a read leaves, and how values compare. -/

namespace Sys2Proof.Machine

@[simp] theorem bitsOf_length (n v : Nat) : (bitsOf n v).length = n := by
  induction n generalizing v with
  | zero => rfl
  | succ n ih => simp [bitsOf, ih]

@[simp] theorem codeBits_length (n v : Nat) : (codeBits n v).length = n := by simp [codeBits]

theorem bitsValue_lt (bs : Bits) : bitsValue bs < 2 ^ bs.length := by
  induction bs with
  | nil => simp [bitsValue]
  | cons b bs ih => cases b <;> simp [bitsValue, pow_succ] <;> omega

theorem bitsValue_bitsOf (n v : Nat) : bitsValue (bitsOf n v) = v % 2 ^ n := by
  induction n generalizing v with
  | zero => simp [bitsOf, bitsValue, Nat.mod_one]
  | succ n ih =>
    simp only [bitsOf, bitsValue, ih]
    rw [pow_succ, mul_comm (2 ^ n) 2, Nat.mod_mul]
    rcases Nat.mod_two_eq_zero_or_one v with h | h <;> simp [h]

/-- A field's value is that of its bits, and the bits after it are left. -/
theorem takeBits_eq (n : Nat) (bs : Bits) :
    takeBits n bs = if bs.length < n then none else some (bitsValue (bs.take n), bs.drop n) := by
  induction n generalizing bs with
  | zero => simp [takeBits, bitsValue]
  | succ n ih =>
    cases bs with
    | nil => simp [takeBits]
    | cons b bs =>
      simp only [takeBits, ih, List.length_cons, Nat.add_lt_add_iff_right, List.take_succ_cons, List.drop_succ_cons]
      split <;> simp [bitsValue]

theorem takeBits_some {n v : Nat} {bs rest : Bits} (h : takeBits n bs = some (v, rest)) :
    v < 2 ^ n ∧ bs.length = n + rest.length := by
  rw [takeBits_eq] at h
  split at h
  · cases h
  · rename_i hl
    simp only [Option.some.injEq, Prod.mk.injEq] at h
    obtain ⟨rfl, rfl⟩ := h
    have hlen : (bs.take n).length = n := by simp; omega
    refine ⟨by simpa only [hlen] using bitsValue_lt (bs.take n), ?_⟩
    simp; omega

/-- Reading a field gives back what `bitsOf` wrote. -/
theorem takeBits_bitsOf (n v : Nat) (rest : Bits) : takeBits n (bitsOf n v ++ rest) = some (v % 2 ^ n, rest) := by
  rw [takeBits_eq]
  have : ¬ (bitsOf n v ++ rest).length < n := by simp
  rw [if_neg this, List.take_left' (by simp), List.drop_left' (by simp), bitsValue_bitsOf]

@[simp] theorem field_bitsOf {α : Type} (n v : Nat) (rest : Bits) (k : Nat → Bits → Except Reject α) :
    field n (bitsOf n v ++ rest) k = k (v % 2 ^ n) rest := by
  simp [field, takeBits_bitsOf]

@[simp] theorem skip_bitsOf {α : Type} (n v : Nat) (rest : Bits) (k : Bits → Except Reject α) :
    skip n (bitsOf n v ++ rest) k = k rest := by
  simp [skip, List.drop_left']

@[simp] theorem bitsOfBytes_length (l : List Byte) : (bitsOfBytes l).length = 8 * l.length := by
  induction l with
  | nil => rfl
  | cons b l ih => simp [bitsOfBytes, ih]; omega

/-- Reading a label gives back the bytes written. -/
theorem takeBytes_bitsOfBytes (l : List Byte) (rest : Bits) :
    takeBytes l.length (bitsOfBytes l ++ rest) = some (l, rest) := by
  induction l with
  | nil => rfl
  | cons b l ih =>
    have hb : b.toNat % 256 = b.toNat := Nat.mod_eq_of_lt b.isLt
    simp [takeBytes, bitsOfBytes, List.append_assoc, takeBits_bitsOf, ih, hb]

theorem takeBytes_some {n : Nat} {bs rest : Bits} {l : List Byte} (h : takeBytes n bs = some (l, rest)) :
    l.length = n ∧ bs.length = 8 * n + rest.length := by
  induction n generalizing bs l rest with
  | zero => simp only [takeBytes, Option.some.injEq, Prod.mk.injEq] at h; obtain ⟨rfl, rfl⟩ := h; simp
  | succ n ih =>
    simp only [takeBytes] at h
    split at h
    · cases h
    · rename_i v r hv
      have h1 := (takeBits_some hv).2
      cases hr : takeBytes n r with
      | none => simp [hr] at h
      | some p =>
        obtain ⟨l', r'⟩ := p
        simp only [hr, Option.map_some, Option.some.injEq, Prod.mk.injEq] at h
        obtain ⟨rfl, rfl⟩ := h
        have h2 := ih hr
        simp; omega

theorem alignUp_ge (n : Nat) : n ≤ alignUp n := by unfold alignUp; omega

theorem alignUp_mod (n : Nat) : alignUp n % 8 = 0 := by simp [alignUp]

/-- Aligning never passes a bound that is a multiple of 8 (40_bit_reader.md R156). -/
theorem alignUp_le {n m : Nat} (h : n ≤ 8 * m) : alignUp n ≤ 8 * m := by unfold alignUp; omega

theorem alignUp_of_aligned {n : Nat} (h : n % 8 = 0) : alignUp n = n := by unfold alignUp; omega

end Sys2Proof.Machine
end

