-- ==== Sys2Proof/Laws/Decoding.lean ====
section
/-! SUPPORT. What reading a field, a label and a codeword can do. -/

namespace Sys2Proof

open Machine

/-- A field that is read had its bits; what follows it goes on with its value and the bits after it. -/
theorem Machine.field_ok {α : Type} {n : Nat} {bs : Bits} {k : Nat → Bits → Except Reject α} {r : α}
    (h : field n bs k = .ok r) : n ≤ bs.length ∧ k (bitsValue (bs.take n)) (bs.drop n) = .ok r := by
  unfold field at h
  rw [takeBits_eq] at h
  by_cases hn : bs.length < n
  · simp [hn] at h
  · simp only [hn, if_false] at h
    exact ⟨by omega, h⟩

/-- A field is refused for missing bits, or by what follows it. -/
theorem Machine.field_error {α : Type} {n : Nat} {bs : Bits} {k : Nat → Bits → Except Reject α} {r : Reject}
    (h : field n bs k = .error r) :
    (bs.length < n ∧ r = .short) ∨ (n ≤ bs.length ∧ k (bitsValue (bs.take n)) (bs.drop n) = .error r) := by
  unfold field at h
  rw [takeBits_eq] at h
  by_cases hn : bs.length < n
  · simp only [hn, if_true, Except.error.injEq] at h; exact .inl ⟨hn, h.symm⟩
  · simp only [hn, if_false] at h
    exact .inr ⟨by omega, h⟩

theorem Machine.skip_ok {α : Type} {n : Nat} {bs : Bits} {k : Bits → Except Reject α} {r : α}
    (h : skip n bs k = .ok r) : n ≤ bs.length ∧ k (bs.drop n) = .ok r := by
  unfold skip at h
  by_cases hn : bs.length < n
  · simp [hn] at h
  · simp only [hn, if_false] at h
    exact ⟨by omega, h⟩

theorem Machine.skip_error {α : Type} {n : Nat} {bs : Bits} {k : Bits → Except Reject α} {r : Reject}
    (h : skip n bs k = .error r) : (bs.length < n ∧ r = .short) ∨ (n ≤ bs.length ∧ k (bs.drop n) = .error r) := by
  unfold skip at h
  by_cases hn : bs.length < n
  · simp only [hn, if_true, Except.error.injEq] at h; exact .inl ⟨hn, h.symm⟩
  · simp only [hn, if_false] at h
    exact .inr ⟨by omega, h⟩

theorem Machine.getD_mem_or (l : List Nat) (i : Nat) : l.getD i 0 ∈ l ∨ l.getD i 0 = 0 := by
  by_cases h : i < l.length
  · left; rw [List.getD_eq_getElem?_getD, List.getElem?_eq_getElem h]; simp
  · right; rw [List.getD_eq_getElem?_getD, List.getElem?_eq_none (by omega)]; rfl

/-- A codeword that is found takes between 1 and `left` bits, and its symbol is one of the table's (or 0). -/
theorem Machine.decodeFrom_ok {T : Table} {left l c sym : Nat} {bs rest : Bits}
    (h : decodeFrom T left l c bs = .ok (sym, rest)) :
    (∃ n, 1 ≤ n ∧ n ≤ left ∧ rest = bs.drop n ∧ n ≤ bs.length) ∧ (sym ∈ T.sorted ∨ sym = 0) := by
  induction left generalizing l c bs with
  | zero => simp [decodeFrom] at h
  | succ left ih =>
    cases bs with
    | nil => simp [decodeFrom] at h
    | cons b bs =>
      simp only [decodeFrom] at h
      split at h
      · simp only [Except.ok.injEq, Prod.mk.injEq] at h
        obtain ⟨rfl, rfl⟩ := h
        exact ⟨⟨1, le_rfl, by omega, by simp, by simp⟩, getD_mem_or _ _⟩
      · obtain ⟨⟨n, h1, h2, rfl, h4⟩, hs⟩ := ih h
        exact ⟨⟨n + 1, by omega, by omega, by simp, by simp; omega⟩, hs⟩

/-- A decoded symbol takes at least one bit and at most MAX_CODE_LEN (41_huffman.md R173). -/
theorem Machine.decodeSymbol_ok {T : Table} {sym : Nat} {bs rest : Bits} (h : decodeSymbol T bs = .ok (sym, rest)) :
    rest.length < bs.length ∧ bs.length ≤ rest.length + Config.maxCodeLen ∧ (sym ∈ T.sorted ∨ sym = 0) := by
  obtain ⟨⟨n, h1, h2, rfl, h4⟩, hs⟩ := decodeFrom_ok h
  simp only [List.length_drop]
  exact ⟨by omega, by omega, hs⟩

/-- A codeword search fails for a missing bit or for want of a match, and for nothing else. -/
theorem Machine.decodeFrom_error {T : Table} {left l c : Nat} {bs : Bits} {r : Reject}
    (h : decodeFrom T left l c bs = .error r) : r = .short ∨ r = .badSymbol := by
  induction left generalizing l c bs with
  | zero => simp only [decodeFrom, Except.error.injEq] at h; exact .inr h.symm
  | succ left ih =>
    cases bs with
    | nil => simp only [decodeFrom, Except.error.injEq] at h; exact .inl h.symm
    | cons b bs =>
      simp only [decodeFrom] at h
      split at h
      · cases h
      · exact ih h

end Sys2Proof
end

