-- ==== Sys2Proof/Laws/Memory.lean ====
section
/-! SUPPORT. The laws of the byte spaces: reading after writing, and the canonical form is kept. -/

namespace Sys2Proof.Machine

/-- The lower bound of `wfAbove`, as a proposition. -/
def Memory.above (lo : Option Nat) (a : Nat) : Prop := ∀ l, lo = some l → l < a

theorem Memory.wfAbove_cons {d : Option Byte} {lo : Option Nat} {c : Host.Cell} {m : Memory} :
    Memory.wfAbove d lo (c :: m) = true ↔
      Memory.above lo c.1 ∧ d ≠ some c.2 ∧ Memory.wfAbove d (some c.1) m = true := by
  cases lo <;> simp [Memory.wfAbove, Memory.above, and_assoc]

theorem Memory.wfAbove_mono {d : Option Byte} {lo lo' : Option Nat} {m : Memory}
    (h : ∀ a, Memory.above lo a → Memory.above lo' a) (hm : Memory.wfAbove d lo m = true) :
    Memory.wfAbove d lo' m = true := by
  cases m with
  | nil => rfl
  | cons c m =>
    rw [Memory.wfAbove_cons] at hm ⊢
    exact ⟨h _ hm.1, hm.2⟩

theorem Memory.wf_nil (d : Option Byte) : Memory.wf d [] = true := rfl

/-- An address at or below the bound of a canonical memory is not listed. -/
theorem Memory.find_below {d : Option Byte} {l a : Nat} {m : Memory} (hm : Memory.wfAbove d (some l) m = true)
    (ha : a ≤ l) : Memory.find m a = none := by
  induction m generalizing l with
  | nil => rfl
  | cons c m ih =>
    rw [Memory.wfAbove_cons] at hm
    have hc : l < c.1 := hm.1 l rfl
    have hne : c.1 ≠ a := by omega
    simp only [Memory.find, hne, if_false]
    exact ih hm.2.2 (by omega)

/-- A write keeps the canonical form above a bound that admits the address. -/
theorem Memory.wfAbove_write {d : Option Byte} {lo : Option Nat} {m : Memory} {a : Nat} {b : Byte}
    (hm : Memory.wfAbove d lo m = true) (ha : Memory.above lo a) :
    Memory.wfAbove d lo (Memory.write d m a b) = true := by
  induction m generalizing lo with
  | nil =>
    simp only [Memory.write]
    split
    · rfl
    · rw [Memory.wfAbove_cons]; exact ⟨ha, by assumption, rfl⟩
  | cons c m ih =>
    have hc := Memory.wfAbove_cons.1 hm
    simp only [Memory.write]
    split
    · rename_i hlt
      split
      · exact hm
      · rw [Memory.wfAbove_cons]
        refine ⟨ha, by assumption, Memory.wfAbove_cons.2 ⟨?_, hc.2⟩⟩
        intro l hl; cases hl; exact hlt
    · split
      · rename_i heq
        split
        · exact Memory.wfAbove_mono (fun x hx l hl => lt_trans (hc.1 l hl) (hx _ rfl)) hc.2.2
        · rw [Memory.wfAbove_cons]
          refine ⟨ha, by assumption, ?_⟩
          rw [show ((a, b) : Host.Cell).1 = c.1 from heq]; exact hc.2.2
      · rw [Memory.wfAbove_cons]
        refine ⟨hc.1, hc.2.1, ih hc.2.2 ?_⟩
        intro l hl; cases hl; omega

/-- Every memory write keeps the canonical form. -/
theorem Memory.wf_write {d : Option Byte} {m : Memory} {a : Nat} {b : Byte} (hm : Memory.wf d m = true) :
    Memory.wf d (Memory.write d m a b) = true :=
  Memory.wfAbove_write hm (fun _ h => by cases h)

/-- Writing a run of bytes keeps the canonical form. -/
theorem Memory.wf_fill {d : Option Byte} {m : Memory} {dst : Nat} {src : Nat → Byte} (n : Nat)
    (hm : Memory.wf d m = true) : Memory.wf d (Memory.fill d m dst src n) = true := by
  induction n with
  | zero => exact hm
  | succ n ih => exact Memory.wf_write ih

/-- A write leaves every other address alone. -/
theorem Memory.find_write_other {d : Option Byte} {m : Memory} {a a' : Nat} {b : Byte} (h : a' ≠ a) :
    Memory.find (Memory.write d m a b) a' = Memory.find m a' := by
  induction m with
  | nil => simp only [Memory.write]; split <;> simp [Memory.find, h.symm]
  | cons c m ih =>
    simp only [Memory.write]
    split
    · split
      · rfl
      · simp [Memory.find, h.symm]
    · split
      · rename_i heq
        have hc : c.1 ≠ a' := by omega
        split <;> simp [Memory.find, h.symm, hc]
      · simp only [Memory.find, ih]

/-- Above a bound, what a write leaves listed at its own address. -/
theorem Memory.find_write_same {d : Option Byte} {lo : Option Nat} {m : Memory} {a : Nat} {b : Byte}
    (hm : Memory.wfAbove d lo m = true) :
    Memory.find (Memory.write d m a b) a = if d = some b then none else some b := by
  induction m generalizing lo with
  | nil => simp only [Memory.write]; split <;> simp [Memory.find]
  | cons c m ih =>
    have hc := Memory.wfAbove_cons.1 hm
    simp only [Memory.write]
    split
    · rename_i hlt
      have hne : c.1 ≠ a := by omega
      split
      · simp only [Memory.find, hne, if_false]
        exact Memory.find_below hc.2.2 (by omega)
      · simp [Memory.find]
    · split
      · rename_i heq
        split
        · exact Memory.find_below hc.2.2 (by omega)
        · simp [Memory.find]
      · rename_i hne
        have hne' : c.1 ≠ a := fun h => hne h.symm
        simp only [Memory.find, hne', if_false]
        exact ih hc.2.2

/-- In IN and TILE, whatever the memory's form, a byte that was written is listed. -/
theorem Memory.find_write_none (m : Memory) (a : Nat) (b : Byte) :
    Memory.find (Memory.write none m a b) a = some b := by
  induction m with
  | nil => simp [Memory.write, Memory.find]
  | cons c m ih =>
    simp only [Memory.write]
    split
    · simp [Memory.find]
    · split
      · simp [Memory.find]
      · rename_i h
        simp only [Memory.find]
        rw [if_neg (fun h' => h h'.symm), ih]

/-- A read after a write to the same place gives the value written. -/
theorem Memory.read_write_same {d : Option Byte} {m : Memory} {a : Nat} {b : Byte} (hm : Memory.wf d m = true) :
    Memory.read d (Memory.write d m a b) a = some b := by
  unfold Memory.read
  rw [Memory.find_write_same (lo := none) hm]
  split
  · rename_i h; simp [h]
  · simp

/-- A write leaves what every other address reads as. -/
theorem Memory.read_write_other {d : Option Byte} {m : Memory} {a a' : Nat} {b : Byte} (h : a' ≠ a) :
    Memory.read d (Memory.write d m a b) a' = Memory.read d m a' := by
  unfold Memory.read; rw [Memory.find_write_other h]

/-- A run of bytes leaves every address outside it alone. -/
theorem Memory.find_fill_other {d : Option Byte} {m : Memory} {dst a : Nat} {src : Nat → Byte} (n : Nat)
    (h : a < dst ∨ dst + n ≤ a) : Memory.find (Memory.fill d m dst src n) a = Memory.find m a := by
  induction n with
  | zero => rfl
  | succ n ih =>
    simp only [Memory.fill]
    rw [Memory.find_write_other (by omega), ih (by omega)]

/-- What a run of bytes leaves to read at its own addresses. -/
theorem Memory.read_fill_inside {d : Option Byte} {m : Memory} {dst k : Nat} {src : Nat → Byte} (n : Nat)
    (hm : Memory.wf d m = true) (h : k < n) :
    Memory.read d (Memory.fill d m dst src n) (dst + k) = some (src k) := by
  induction n with
  | zero => omega
  | succ n ih =>
    simp only [Memory.fill]
    by_cases hk : k = n
    · subst hk; exact Memory.read_write_same (Memory.wf_fill _ hm)
    · rw [Memory.read_write_other (by omega)]; exact ih (by omega)

/-- Two canonical memories that list the same bytes are equal. -/
theorem Memory.wfAbove_ext {d : Option Byte} {lo : Option Nat} {m m' : Memory} (hm : Memory.wfAbove d lo m = true)
    (hm' : Memory.wfAbove d lo m' = true) (h : ∀ a, Memory.find m a = Memory.find m' a) : m = m' := by
  induction m generalizing lo m' with
  | nil =>
    cases m' with
    | nil => rfl
    | cons c' m' => have := h c'.1; simp [Memory.find] at this
  | cons c m ih =>
    cases m' with
    | nil => have := h c.1; simp [Memory.find] at this
    | cons c' m' =>
      have hc := Memory.wfAbove_cons.1 hm
      have hc' := Memory.wfAbove_cons.1 hm'
      have key : c.1 = c'.1 := by
        rcases Nat.lt_trichotomy c.1 c'.1 with hlt | heq | hgt
        · have h1 := h c.1
          have hne : c'.1 ≠ c.1 := by omega
          simp only [Memory.find, if_true, hne, if_false] at h1
          rw [Memory.find_below hc'.2.2 (by omega)] at h1; cases h1
        · exact heq
        · have h1 := h c'.1
          have hne : c.1 ≠ c'.1 := by omega
          simp only [Memory.find, if_true, hne, if_false] at h1
          rw [Memory.find_below hc.2.2 (by omega)] at h1; cases h1
      have h1 := h c.1
      rw [key] at h1
      simp only [Memory.find, key, if_true, Option.some.injEq] at h1
      have hcc : c = c' := Prod.ext key h1
      subst hcc
      congr 1
      refine ih hc.2.2 hc'.2.2 fun a => ?_
      by_cases ha : c.1 = a
      · subst ha; rw [Memory.find_below hc.2.2 le_rfl, Memory.find_below hc'.2.2 le_rfl]
      · have := h a; simpa only [Memory.find, ha, if_false] using this

end Sys2Proof.Machine
end

