-- ==== Sys2Proof/Laws/State.lean ====
section
/-! SUPPORT. What each named update of the state leaves in each field. -/

namespace Sys2Proof.Machine

@[simp] theorem clearResults_cfg (s : State) : (clearResults s).cfg = s.cfg := rfl
@[simp] theorem clearResults_ctrl (s : State) : (clearResults s).ctrl = s.ctrl := rfl
@[simp] theorem clearResults_status (s : State) : (clearResults s).status = s.status := rfl
@[simp] theorem clearResults_errInfo (s : State) : (clearResults s).errInfo = s.errInfo := rfl
@[simp] theorem clearResults_errOffset (s : State) : (clearResults s).errOffset = s.errOffset := rfl
@[simp] theorem clearResults_inLen (s : State) : (clearResults s).inLen = s.inLen := rfl
@[simp] theorem clearResults_res (s : State) : (clearResults s).res = s.res := rfl
@[simp] theorem clearResults_host (s : State) : (clearResults s).host = s.host := rfl
@[simp] theorem clearResults_rx (s : State) : (clearResults s).rx = s.rx := rfl
@[simp] theorem clearResults_inp (s : State) : (clearResults s).inp = s.inp := rfl
@[simp] theorem clearResults_inEpoch (s : State) : (clearResults s).inEpoch = s.inEpoch := rfl
@[simp] theorem clearResults_tile (s : State) : (clearResults s).tile = s.tile := rfl
@[simp] theorem clearResults_tileEpoch (s : State) : (clearResults s).tileEpoch = s.tileEpoch := rfl
@[simp] theorem clearResults_atlas (s : State) : (clearResults s).atlas = [] := rfl
@[simp] theorem clearResults_atlasLen (s : State) : (clearResults s).atlasLen = 0 := rfl
@[simp] theorem clearResults_pal (s : State) : (clearResults s).pal = [] := rfl
@[simp] theorem clearResults_dur (s : State) : (clearResults s).dur = [] := rfl
@[simp] theorem clearResults_tags (s : State) : (clearResults s).tags = [] := rfl
@[simp] theorem clearResults_slices (s : State) : (clearResults s).slices = [] := rfl
@[simp] theorem clearResults_seq (s : State) : (clearResults s).seq = s.seq := rfl
@[simp] theorem clearResults_phase (s : State) : (clearResults s).phase = s.phase := rfl
@[simp] theorem clearResults_brStart (s : State) : (clearResults s).brStart = s.brStart := rfl
@[simp] theorem clearResults_brEnd (s : State) : (clearResults s).brEnd = s.brEnd := rfl
@[simp] theorem clearResults_brPos (s : State) : (clearResults s).brPos = s.brPos := rfl
@[simp] theorem clearResults_outPos (s : State) : (clearResults s).outPos = s.outPos := rfl
@[simp] theorem clearResults_outCap (s : State) : (clearResults s).outCap = s.outCap := rfl
@[simp] theorem clearResults_bfinal (s : State) : (clearResults s).bfinal = s.bfinal := rfl
@[simp] theorem clearResults_btype (s : State) : (clearResults s).btype = s.btype := rfl
@[simp] theorem clearResults_hlit (s : State) : (clearResults s).hlit = s.hlit := rfl
@[simp] theorem clearResults_hdist (s : State) : (clearResults s).hdist = s.hdist := rfl
@[simp] theorem clearResults_hclen (s : State) : (clearResults s).hclen = s.hclen := rfl
@[simp] theorem clearResults_clLens (s : State) : (clearResults s).clLens = s.clLens := rfl
@[simp] theorem clearResults_lens (s : State) : (clearResults s).lens = s.lens := rfl
@[simp] theorem clearResults_litTab (s : State) : (clearResults s).litTab = s.litTab := rfl
@[simp] theorem clearResults_distTab (s : State) : (clearResults s).distTab = s.distTab := rfl
@[simp] theorem clearResults_clTab (s : State) : (clearResults s).clTab = s.clTab := rfl
@[simp] theorem clearResults_clI (s : State) : (clearResults s).clI = s.clI := rfl
@[simp] theorem clearResults_lensN (s : State) : (clearResults s).lensN = s.lensN := rfl
@[simp] theorem clearResults_matchLen (s : State) : (clearResults s).matchLen = s.matchLen := rfl
@[simp] theorem clearResults_adlerA (s : State) : (clearResults s).adlerA = s.adlerA := rfl
@[simp] theorem clearResults_adlerB (s : State) : (clearResults s).adlerB = s.adlerB := rfl
@[simp] theorem clearResults_cur (s : State) : (clearResults s).cur = s.cur := rfl
@[simp] theorem clearResults_fileSize (s : State) : (clearResults s).fileSize = s.fileSize := rfl
@[simp] theorem clearResults_nframes (s : State) : (clearResults s).nframes = s.nframes := rfl
@[simp] theorem clearResults_width (s : State) : (clearResults s).width = s.width := rfl
@[simp] theorem clearResults_height (s : State) : (clearResults s).height = s.height := rfl
@[simp] theorem clearResults_depth (s : State) : (clearResults s).depth = s.depth := rfl
@[simp] theorem clearResults_bpp (s : State) : (clearResults s).bpp = s.bpp := rfl
@[simp] theorem clearResults_tkey (s : State) : (clearResults s).tkey = s.tkey := rfl
@[simp] theorem clearResults_frameIdx (s : State) : (clearResults s).frameIdx = s.frameIdx := rfl
@[simp] theorem clearResults_frameStart (s : State) : (clearResults s).frameStart = s.frameStart := rfl
@[simp] theorem clearResults_frameEnd (s : State) : (clearResults s).frameEnd = s.frameEnd := rfl
@[simp] theorem clearResults_chunksLeft (s : State) : (clearResults s).chunksLeft = s.chunksLeft := rfl
@[simp] theorem clearResults_chunkStart (s : State) : (clearResults s).chunkStart = s.chunkStart := rfl
@[simp] theorem clearResults_chunkEnd (s : State) : (clearResults s).chunkEnd = s.chunkEnd := rfl
@[simp] theorem clearResults_ctype (s : State) : (clearResults s).ctype = s.ctype := rfl
@[simp] theorem clearResults_q (s : State) : (clearResults s).q = s.q := rfl
@[simp] theorem clearResults_palK (s : State) : (clearResults s).palK = s.palK := rfl
@[simp] theorem clearResults_palLast (s : State) : (clearResults s).palLast = s.palLast := rfl
@[simp] theorem clearResults_palNew (s : State) : (clearResults s).palNew = s.palNew := rfl
@[simp] theorem clearResults_palCount (s : State) : (clearResults s).palCount = s.palCount := rfl
@[simp] theorem clearResults_celX (s : State) : (clearResults s).celX = s.celX := rfl
@[simp] theorem clearResults_celY (s : State) : (clearResults s).celY = s.celY := rfl
@[simp] theorem clearResults_celW (s : State) : (clearResults s).celW = s.celW := rfl
@[simp] theorem clearResults_celH (s : State) : (clearResults s).celH = s.celH := rfl
@[simp] theorem clearResults_tagI (s : State) : (clearResults s).tagI = s.tagI := rfl
@[simp] theorem clearResults_tagN (s : State) : (clearResults s).tagN = s.tagN := rfl
@[simp] theorem clearResults_sliceLabel (s : State) : (clearResults s).sliceLabel = s.sliceLabel := rfl
@[simp] theorem clearResults_flipL (s : State) : (clearResults s).flipL = s.flipL := rfl

@[simp] theorem failEntry_cfg (c : Cause) (s : State) : (failEntry c s).cfg = s.cfg := rfl
@[simp] theorem failEntry_ctrl (c : Cause) (s : State) : (failEntry c s).ctrl = s.ctrl := rfl
@[simp] theorem failEntry_status (c : Cause) (s : State) : (failEntry c s).status = statusWord false true true := rfl
@[simp] theorem failEntry_errInfo (c : Cause) (s : State) : (failEntry c s).errInfo = errInfoWord c := rfl
@[simp] theorem failEntry_errOffset (c : Cause) (s : State) : (failEntry c s).errOffset = BitVec.ofNat 64 (errAddress c s) := rfl
@[simp] theorem failEntry_inLen (c : Cause) (s : State) : (failEntry c s).inLen = s.inLen := rfl
@[simp] theorem failEntry_res (c : Cause) (s : State) : (failEntry c s).res = s.res := rfl
@[simp] theorem failEntry_host (c : Cause) (s : State) : (failEntry c s).host = s.host := rfl
@[simp] theorem failEntry_rx (c : Cause) (s : State) : (failEntry c s).rx = s.rx := rfl
@[simp] theorem failEntry_inp (c : Cause) (s : State) : (failEntry c s).inp = s.inp := rfl
@[simp] theorem failEntry_inEpoch (c : Cause) (s : State) : (failEntry c s).inEpoch = s.inEpoch := rfl
@[simp] theorem failEntry_tile (c : Cause) (s : State) : (failEntry c s).tile = s.tile := rfl
@[simp] theorem failEntry_tileEpoch (c : Cause) (s : State) : (failEntry c s).tileEpoch = s.tileEpoch := rfl
@[simp] theorem failEntry_atlas (c : Cause) (s : State) : (failEntry c s).atlas = [] := rfl
@[simp] theorem failEntry_atlasLen (c : Cause) (s : State) : (failEntry c s).atlasLen = 0 := rfl
@[simp] theorem failEntry_pal (c : Cause) (s : State) : (failEntry c s).pal = [] := rfl
@[simp] theorem failEntry_dur (c : Cause) (s : State) : (failEntry c s).dur = [] := rfl
@[simp] theorem failEntry_tags (c : Cause) (s : State) : (failEntry c s).tags = [] := rfl
@[simp] theorem failEntry_slices (c : Cause) (s : State) : (failEntry c s).slices = [] := rfl
@[simp] theorem failEntry_seq (c : Cause) (s : State) : (failEntry c s).seq = .idle := rfl
@[simp] theorem failEntry_phase (c : Cause) (s : State) : (failEntry c s).phase = .head := rfl
@[simp] theorem failEntry_brStart (c : Cause) (s : State) : (failEntry c s).brStart = s.brStart := rfl
@[simp] theorem failEntry_brEnd (c : Cause) (s : State) : (failEntry c s).brEnd = s.brEnd := rfl
@[simp] theorem failEntry_brPos (c : Cause) (s : State) : (failEntry c s).brPos = s.brPos := rfl
@[simp] theorem failEntry_outPos (c : Cause) (s : State) : (failEntry c s).outPos = s.outPos := rfl
@[simp] theorem failEntry_outCap (c : Cause) (s : State) : (failEntry c s).outCap = s.outCap := rfl
@[simp] theorem failEntry_bfinal (c : Cause) (s : State) : (failEntry c s).bfinal = s.bfinal := rfl
@[simp] theorem failEntry_btype (c : Cause) (s : State) : (failEntry c s).btype = s.btype := rfl
@[simp] theorem failEntry_hlit (c : Cause) (s : State) : (failEntry c s).hlit = s.hlit := rfl
@[simp] theorem failEntry_hdist (c : Cause) (s : State) : (failEntry c s).hdist = s.hdist := rfl
@[simp] theorem failEntry_hclen (c : Cause) (s : State) : (failEntry c s).hclen = s.hclen := rfl
@[simp] theorem failEntry_clLens (c : Cause) (s : State) : (failEntry c s).clLens = s.clLens := rfl
@[simp] theorem failEntry_lens (c : Cause) (s : State) : (failEntry c s).lens = s.lens := rfl
@[simp] theorem failEntry_litTab (c : Cause) (s : State) : (failEntry c s).litTab = s.litTab := rfl
@[simp] theorem failEntry_distTab (c : Cause) (s : State) : (failEntry c s).distTab = s.distTab := rfl
@[simp] theorem failEntry_clTab (c : Cause) (s : State) : (failEntry c s).clTab = s.clTab := rfl
@[simp] theorem failEntry_clI (c : Cause) (s : State) : (failEntry c s).clI = s.clI := rfl
@[simp] theorem failEntry_lensN (c : Cause) (s : State) : (failEntry c s).lensN = s.lensN := rfl
@[simp] theorem failEntry_matchLen (c : Cause) (s : State) : (failEntry c s).matchLen = s.matchLen := rfl
@[simp] theorem failEntry_adlerA (c : Cause) (s : State) : (failEntry c s).adlerA = s.adlerA := rfl
@[simp] theorem failEntry_adlerB (c : Cause) (s : State) : (failEntry c s).adlerB = s.adlerB := rfl
@[simp] theorem failEntry_cur (c : Cause) (s : State) : (failEntry c s).cur = s.cur := rfl
@[simp] theorem failEntry_fileSize (c : Cause) (s : State) : (failEntry c s).fileSize = s.fileSize := rfl
@[simp] theorem failEntry_nframes (c : Cause) (s : State) : (failEntry c s).nframes = s.nframes := rfl
@[simp] theorem failEntry_width (c : Cause) (s : State) : (failEntry c s).width = s.width := rfl
@[simp] theorem failEntry_height (c : Cause) (s : State) : (failEntry c s).height = s.height := rfl
@[simp] theorem failEntry_depth (c : Cause) (s : State) : (failEntry c s).depth = s.depth := rfl
@[simp] theorem failEntry_bpp (c : Cause) (s : State) : (failEntry c s).bpp = s.bpp := rfl
@[simp] theorem failEntry_tkey (c : Cause) (s : State) : (failEntry c s).tkey = s.tkey := rfl
@[simp] theorem failEntry_frameIdx (c : Cause) (s : State) : (failEntry c s).frameIdx = s.frameIdx := rfl
@[simp] theorem failEntry_frameStart (c : Cause) (s : State) : (failEntry c s).frameStart = s.frameStart := rfl
@[simp] theorem failEntry_frameEnd (c : Cause) (s : State) : (failEntry c s).frameEnd = s.frameEnd := rfl
@[simp] theorem failEntry_chunksLeft (c : Cause) (s : State) : (failEntry c s).chunksLeft = s.chunksLeft := rfl
@[simp] theorem failEntry_chunkStart (c : Cause) (s : State) : (failEntry c s).chunkStart = s.chunkStart := rfl
@[simp] theorem failEntry_chunkEnd (c : Cause) (s : State) : (failEntry c s).chunkEnd = s.chunkEnd := rfl
@[simp] theorem failEntry_ctype (c : Cause) (s : State) : (failEntry c s).ctype = s.ctype := rfl
@[simp] theorem failEntry_q (c : Cause) (s : State) : (failEntry c s).q = s.q := rfl
@[simp] theorem failEntry_palK (c : Cause) (s : State) : (failEntry c s).palK = s.palK := rfl
@[simp] theorem failEntry_palLast (c : Cause) (s : State) : (failEntry c s).palLast = s.palLast := rfl
@[simp] theorem failEntry_palNew (c : Cause) (s : State) : (failEntry c s).palNew = s.palNew := rfl
@[simp] theorem failEntry_palCount (c : Cause) (s : State) : (failEntry c s).palCount = s.palCount := rfl
@[simp] theorem failEntry_celX (c : Cause) (s : State) : (failEntry c s).celX = s.celX := rfl
@[simp] theorem failEntry_celY (c : Cause) (s : State) : (failEntry c s).celY = s.celY := rfl
@[simp] theorem failEntry_celW (c : Cause) (s : State) : (failEntry c s).celW = s.celW := rfl
@[simp] theorem failEntry_celH (c : Cause) (s : State) : (failEntry c s).celH = s.celH := rfl
@[simp] theorem failEntry_tagI (c : Cause) (s : State) : (failEntry c s).tagI = s.tagI := rfl
@[simp] theorem failEntry_tagN (c : Cause) (s : State) : (failEntry c s).tagN = s.tagN := rfl
@[simp] theorem failEntry_sliceLabel (c : Cause) (s : State) : (failEntry c s).sliceLabel = s.sliceLabel := rfl
@[simp] theorem failEntry_flipL (c : Cause) (s : State) : (failEntry c s).flipL = s.flipL := rfl

@[simp] theorem startLoad_cfg (s : State) : (startLoad s).cfg = s.cfg := rfl
@[simp] theorem startLoad_ctrl (s : State) : (startLoad s).ctrl = s.ctrl := rfl
@[simp] theorem startLoad_status (s : State) : (startLoad s).status = statusWord true false false := rfl
@[simp] theorem startLoad_errInfo (s : State) : (startLoad s).errInfo = 0 := rfl
@[simp] theorem startLoad_errOffset (s : State) : (startLoad s).errOffset = 0 := rfl
@[simp] theorem startLoad_inLen (s : State) : (startLoad s).inLen = s.inLen := rfl
@[simp] theorem startLoad_res (s : State) : (startLoad s).res = Results.zero := rfl
@[simp] theorem startLoad_host (s : State) : (startLoad s).host = s.host := rfl
@[simp] theorem startLoad_rx (s : State) : (startLoad s).rx = s.rx := rfl
@[simp] theorem startLoad_inp (s : State) : (startLoad s).inp = s.inp := rfl
@[simp] theorem startLoad_inEpoch (s : State) : (startLoad s).inEpoch = s.inEpoch := rfl
@[simp] theorem startLoad_tile (s : State) : (startLoad s).tile = s.tile := rfl
@[simp] theorem startLoad_tileEpoch (s : State) : (startLoad s).tileEpoch = s.tileEpoch := rfl
@[simp] theorem startLoad_atlas (s : State) : (startLoad s).atlas = [] := rfl
@[simp] theorem startLoad_atlasLen (s : State) : (startLoad s).atlasLen = 0 := rfl
@[simp] theorem startLoad_pal (s : State) : (startLoad s).pal = [] := rfl
@[simp] theorem startLoad_dur (s : State) : (startLoad s).dur = [] := rfl
@[simp] theorem startLoad_tags (s : State) : (startLoad s).tags = [] := rfl
@[simp] theorem startLoad_slices (s : State) : (startLoad s).slices = [] := rfl
@[simp] theorem startLoad_seq (s : State) : (startLoad s).seq = .fileHdr := rfl
@[simp] theorem startLoad_phase (s : State) : (startLoad s).phase = .head := rfl
@[simp] theorem startLoad_brStart (s : State) : (startLoad s).brStart = s.brStart := rfl
@[simp] theorem startLoad_brEnd (s : State) : (startLoad s).brEnd = s.brEnd := rfl
@[simp] theorem startLoad_brPos (s : State) : (startLoad s).brPos = s.brPos := rfl
@[simp] theorem startLoad_outPos (s : State) : (startLoad s).outPos = s.outPos := rfl
@[simp] theorem startLoad_outCap (s : State) : (startLoad s).outCap = s.outCap := rfl
@[simp] theorem startLoad_bfinal (s : State) : (startLoad s).bfinal = s.bfinal := rfl
@[simp] theorem startLoad_btype (s : State) : (startLoad s).btype = s.btype := rfl
@[simp] theorem startLoad_hlit (s : State) : (startLoad s).hlit = s.hlit := rfl
@[simp] theorem startLoad_hdist (s : State) : (startLoad s).hdist = s.hdist := rfl
@[simp] theorem startLoad_hclen (s : State) : (startLoad s).hclen = s.hclen := rfl
@[simp] theorem startLoad_clLens (s : State) : (startLoad s).clLens = s.clLens := rfl
@[simp] theorem startLoad_lens (s : State) : (startLoad s).lens = s.lens := rfl
@[simp] theorem startLoad_litTab (s : State) : (startLoad s).litTab = s.litTab := rfl
@[simp] theorem startLoad_distTab (s : State) : (startLoad s).distTab = s.distTab := rfl
@[simp] theorem startLoad_clTab (s : State) : (startLoad s).clTab = s.clTab := rfl
@[simp] theorem startLoad_clI (s : State) : (startLoad s).clI = s.clI := rfl
@[simp] theorem startLoad_lensN (s : State) : (startLoad s).lensN = s.lensN := rfl
@[simp] theorem startLoad_matchLen (s : State) : (startLoad s).matchLen = s.matchLen := rfl
@[simp] theorem startLoad_adlerA (s : State) : (startLoad s).adlerA = s.adlerA := rfl
@[simp] theorem startLoad_adlerB (s : State) : (startLoad s).adlerB = s.adlerB := rfl
@[simp] theorem startLoad_cur (s : State) : (startLoad s).cur = s.cur := rfl
@[simp] theorem startLoad_fileSize (s : State) : (startLoad s).fileSize = s.fileSize := rfl
@[simp] theorem startLoad_nframes (s : State) : (startLoad s).nframes = s.nframes := rfl
@[simp] theorem startLoad_width (s : State) : (startLoad s).width = s.width := rfl
@[simp] theorem startLoad_height (s : State) : (startLoad s).height = s.height := rfl
@[simp] theorem startLoad_depth (s : State) : (startLoad s).depth = s.depth := rfl
@[simp] theorem startLoad_bpp (s : State) : (startLoad s).bpp = s.bpp := rfl
@[simp] theorem startLoad_tkey (s : State) : (startLoad s).tkey = s.tkey := rfl
@[simp] theorem startLoad_frameIdx (s : State) : (startLoad s).frameIdx = s.frameIdx := rfl
@[simp] theorem startLoad_frameStart (s : State) : (startLoad s).frameStart = s.frameStart := rfl
@[simp] theorem startLoad_frameEnd (s : State) : (startLoad s).frameEnd = s.frameEnd := rfl
@[simp] theorem startLoad_chunksLeft (s : State) : (startLoad s).chunksLeft = s.chunksLeft := rfl
@[simp] theorem startLoad_chunkStart (s : State) : (startLoad s).chunkStart = s.chunkStart := rfl
@[simp] theorem startLoad_chunkEnd (s : State) : (startLoad s).chunkEnd = s.chunkEnd := rfl
@[simp] theorem startLoad_ctype (s : State) : (startLoad s).ctype = s.ctype := rfl
@[simp] theorem startLoad_q (s : State) : (startLoad s).q = s.q := rfl
@[simp] theorem startLoad_palK (s : State) : (startLoad s).palK = s.palK := rfl
@[simp] theorem startLoad_palLast (s : State) : (startLoad s).palLast = s.palLast := rfl
@[simp] theorem startLoad_palNew (s : State) : (startLoad s).palNew = s.palNew := rfl
@[simp] theorem startLoad_palCount (s : State) : (startLoad s).palCount = s.palCount := rfl
@[simp] theorem startLoad_celX (s : State) : (startLoad s).celX = s.celX := rfl
@[simp] theorem startLoad_celY (s : State) : (startLoad s).celY = s.celY := rfl
@[simp] theorem startLoad_celW (s : State) : (startLoad s).celW = s.celW := rfl
@[simp] theorem startLoad_celH (s : State) : (startLoad s).celH = s.celH := rfl
@[simp] theorem startLoad_tagI (s : State) : (startLoad s).tagI = s.tagI := rfl
@[simp] theorem startLoad_tagN (s : State) : (startLoad s).tagN = s.tagN := rfl
@[simp] theorem startLoad_sliceLabel (s : State) : (startLoad s).sliceLabel = s.sliceLabel := rfl
@[simp] theorem startLoad_flipL (s : State) : (startLoad s).flipL = ctrlFlip s.ctrl := rfl

@[simp] theorem publish_cfg (s : State) : (publish s).cfg = s.cfg := rfl
@[simp] theorem publish_ctrl (s : State) : (publish s).ctrl = s.ctrl := rfl
@[simp] theorem publish_status (s : State) : (publish s).status = statusWord false true false := rfl
@[simp] theorem publish_errInfo (s : State) : (publish s).errInfo = s.errInfo := rfl
@[simp] theorem publish_errOffset (s : State) : (publish s).errOffset = s.errOffset := rfl
@[simp] theorem publish_inLen (s : State) : (publish s).inLen = s.inLen := rfl
@[simp] theorem publish_host (s : State) : (publish s).host = s.host := rfl
@[simp] theorem publish_rx (s : State) : (publish s).rx = s.rx := rfl
@[simp] theorem publish_inp (s : State) : (publish s).inp = s.inp := rfl
@[simp] theorem publish_inEpoch (s : State) : (publish s).inEpoch = s.inEpoch := rfl
@[simp] theorem publish_tile (s : State) : (publish s).tile = s.tile := rfl
@[simp] theorem publish_tileEpoch (s : State) : (publish s).tileEpoch = s.tileEpoch := rfl
@[simp] theorem publish_atlas (s : State) : (publish s).atlas = s.atlas := rfl
@[simp] theorem publish_atlasLen (s : State) : (publish s).atlasLen = s.atlasLen := rfl
@[simp] theorem publish_pal (s : State) : (publish s).pal = s.pal := rfl
@[simp] theorem publish_dur (s : State) : (publish s).dur = s.dur := rfl
@[simp] theorem publish_tags (s : State) : (publish s).tags = s.tags := rfl
@[simp] theorem publish_slices (s : State) : (publish s).slices = s.slices := rfl
@[simp] theorem publish_seq (s : State) : (publish s).seq = .idle := rfl
@[simp] theorem publish_phase (s : State) : (publish s).phase = .head := rfl
@[simp] theorem publish_brStart (s : State) : (publish s).brStart = s.brStart := rfl
@[simp] theorem publish_brEnd (s : State) : (publish s).brEnd = s.brEnd := rfl
@[simp] theorem publish_brPos (s : State) : (publish s).brPos = s.brPos := rfl
@[simp] theorem publish_outPos (s : State) : (publish s).outPos = s.outPos := rfl
@[simp] theorem publish_outCap (s : State) : (publish s).outCap = s.outCap := rfl
@[simp] theorem publish_bfinal (s : State) : (publish s).bfinal = s.bfinal := rfl
@[simp] theorem publish_btype (s : State) : (publish s).btype = s.btype := rfl
@[simp] theorem publish_hlit (s : State) : (publish s).hlit = s.hlit := rfl
@[simp] theorem publish_hdist (s : State) : (publish s).hdist = s.hdist := rfl
@[simp] theorem publish_hclen (s : State) : (publish s).hclen = s.hclen := rfl
@[simp] theorem publish_clLens (s : State) : (publish s).clLens = s.clLens := rfl
@[simp] theorem publish_lens (s : State) : (publish s).lens = s.lens := rfl
@[simp] theorem publish_litTab (s : State) : (publish s).litTab = s.litTab := rfl
@[simp] theorem publish_distTab (s : State) : (publish s).distTab = s.distTab := rfl
@[simp] theorem publish_clTab (s : State) : (publish s).clTab = s.clTab := rfl
@[simp] theorem publish_clI (s : State) : (publish s).clI = s.clI := rfl
@[simp] theorem publish_lensN (s : State) : (publish s).lensN = s.lensN := rfl
@[simp] theorem publish_matchLen (s : State) : (publish s).matchLen = s.matchLen := rfl
@[simp] theorem publish_adlerA (s : State) : (publish s).adlerA = s.adlerA := rfl
@[simp] theorem publish_adlerB (s : State) : (publish s).adlerB = s.adlerB := rfl
@[simp] theorem publish_cur (s : State) : (publish s).cur = s.cur := rfl
@[simp] theorem publish_fileSize (s : State) : (publish s).fileSize = s.fileSize := rfl
@[simp] theorem publish_nframes (s : State) : (publish s).nframes = s.nframes := rfl
@[simp] theorem publish_width (s : State) : (publish s).width = s.width := rfl
@[simp] theorem publish_height (s : State) : (publish s).height = s.height := rfl
@[simp] theorem publish_depth (s : State) : (publish s).depth = s.depth := rfl
@[simp] theorem publish_bpp (s : State) : (publish s).bpp = s.bpp := rfl
@[simp] theorem publish_tkey (s : State) : (publish s).tkey = s.tkey := rfl
@[simp] theorem publish_frameIdx (s : State) : (publish s).frameIdx = s.frameIdx := rfl
@[simp] theorem publish_frameStart (s : State) : (publish s).frameStart = s.frameStart := rfl
@[simp] theorem publish_frameEnd (s : State) : (publish s).frameEnd = s.frameEnd := rfl
@[simp] theorem publish_chunksLeft (s : State) : (publish s).chunksLeft = s.chunksLeft := rfl
@[simp] theorem publish_chunkStart (s : State) : (publish s).chunkStart = s.chunkStart := rfl
@[simp] theorem publish_chunkEnd (s : State) : (publish s).chunkEnd = s.chunkEnd := rfl
@[simp] theorem publish_ctype (s : State) : (publish s).ctype = s.ctype := rfl
@[simp] theorem publish_q (s : State) : (publish s).q = s.q := rfl
@[simp] theorem publish_palK (s : State) : (publish s).palK = s.palK := rfl
@[simp] theorem publish_palLast (s : State) : (publish s).palLast = s.palLast := rfl
@[simp] theorem publish_palNew (s : State) : (publish s).palNew = s.palNew := rfl
@[simp] theorem publish_palCount (s : State) : (publish s).palCount = s.palCount := rfl
@[simp] theorem publish_celX (s : State) : (publish s).celX = s.celX := rfl
@[simp] theorem publish_celY (s : State) : (publish s).celY = s.celY := rfl
@[simp] theorem publish_celW (s : State) : (publish s).celW = s.celW := rfl
@[simp] theorem publish_celH (s : State) : (publish s).celH = s.celH := rfl
@[simp] theorem publish_tagI (s : State) : (publish s).tagI = s.tagI := rfl
@[simp] theorem publish_tagN (s : State) : (publish s).tagN = s.tagN := rfl
@[simp] theorem publish_sliceLabel (s : State) : (publish s).sliceLabel = s.sliceLabel := rfl
@[simp] theorem publish_flipL (s : State) : (publish s).flipL = s.flipL := rfl

@[simp] theorem advanceBits_cfg (n : Nat) (s : State) : (advanceBits n s).cfg = s.cfg := rfl
@[simp] theorem advanceBits_ctrl (n : Nat) (s : State) : (advanceBits n s).ctrl = s.ctrl := rfl
@[simp] theorem advanceBits_status (n : Nat) (s : State) : (advanceBits n s).status = s.status := rfl
@[simp] theorem advanceBits_errInfo (n : Nat) (s : State) : (advanceBits n s).errInfo = s.errInfo := rfl
@[simp] theorem advanceBits_errOffset (n : Nat) (s : State) : (advanceBits n s).errOffset = s.errOffset := rfl
@[simp] theorem advanceBits_inLen (n : Nat) (s : State) : (advanceBits n s).inLen = s.inLen := rfl
@[simp] theorem advanceBits_res (n : Nat) (s : State) : (advanceBits n s).res = s.res := rfl
@[simp] theorem advanceBits_host (n : Nat) (s : State) : (advanceBits n s).host = s.host := rfl
@[simp] theorem advanceBits_rx (n : Nat) (s : State) : (advanceBits n s).rx = s.rx := rfl
@[simp] theorem advanceBits_inp (n : Nat) (s : State) : (advanceBits n s).inp = s.inp := rfl
@[simp] theorem advanceBits_inEpoch (n : Nat) (s : State) : (advanceBits n s).inEpoch = s.inEpoch := rfl
@[simp] theorem advanceBits_tile (n : Nat) (s : State) : (advanceBits n s).tile = s.tile := rfl
@[simp] theorem advanceBits_tileEpoch (n : Nat) (s : State) : (advanceBits n s).tileEpoch = s.tileEpoch := rfl
@[simp] theorem advanceBits_atlas (n : Nat) (s : State) : (advanceBits n s).atlas = s.atlas := rfl
@[simp] theorem advanceBits_atlasLen (n : Nat) (s : State) : (advanceBits n s).atlasLen = s.atlasLen := rfl
@[simp] theorem advanceBits_pal (n : Nat) (s : State) : (advanceBits n s).pal = s.pal := rfl
@[simp] theorem advanceBits_dur (n : Nat) (s : State) : (advanceBits n s).dur = s.dur := rfl
@[simp] theorem advanceBits_tags (n : Nat) (s : State) : (advanceBits n s).tags = s.tags := rfl
@[simp] theorem advanceBits_slices (n : Nat) (s : State) : (advanceBits n s).slices = s.slices := rfl
@[simp] theorem advanceBits_seq (n : Nat) (s : State) : (advanceBits n s).seq = s.seq := rfl
@[simp] theorem advanceBits_phase (n : Nat) (s : State) : (advanceBits n s).phase = s.phase := rfl
@[simp] theorem advanceBits_brStart (n : Nat) (s : State) : (advanceBits n s).brStart = s.brStart := rfl
@[simp] theorem advanceBits_brEnd (n : Nat) (s : State) : (advanceBits n s).brEnd = s.brEnd := rfl
@[simp] theorem advanceBits_brPos (n : Nat) (s : State) : (advanceBits n s).brPos = s.brPos + n := rfl
@[simp] theorem advanceBits_outPos (n : Nat) (s : State) : (advanceBits n s).outPos = s.outPos := rfl
@[simp] theorem advanceBits_outCap (n : Nat) (s : State) : (advanceBits n s).outCap = s.outCap := rfl
@[simp] theorem advanceBits_bfinal (n : Nat) (s : State) : (advanceBits n s).bfinal = s.bfinal := rfl
@[simp] theorem advanceBits_btype (n : Nat) (s : State) : (advanceBits n s).btype = s.btype := rfl
@[simp] theorem advanceBits_hlit (n : Nat) (s : State) : (advanceBits n s).hlit = s.hlit := rfl
@[simp] theorem advanceBits_hdist (n : Nat) (s : State) : (advanceBits n s).hdist = s.hdist := rfl
@[simp] theorem advanceBits_hclen (n : Nat) (s : State) : (advanceBits n s).hclen = s.hclen := rfl
@[simp] theorem advanceBits_clLens (n : Nat) (s : State) : (advanceBits n s).clLens = s.clLens := rfl
@[simp] theorem advanceBits_lens (n : Nat) (s : State) : (advanceBits n s).lens = s.lens := rfl
@[simp] theorem advanceBits_litTab (n : Nat) (s : State) : (advanceBits n s).litTab = s.litTab := rfl
@[simp] theorem advanceBits_distTab (n : Nat) (s : State) : (advanceBits n s).distTab = s.distTab := rfl
@[simp] theorem advanceBits_clTab (n : Nat) (s : State) : (advanceBits n s).clTab = s.clTab := rfl
@[simp] theorem advanceBits_clI (n : Nat) (s : State) : (advanceBits n s).clI = s.clI := rfl
@[simp] theorem advanceBits_lensN (n : Nat) (s : State) : (advanceBits n s).lensN = s.lensN := rfl
@[simp] theorem advanceBits_matchLen (n : Nat) (s : State) : (advanceBits n s).matchLen = s.matchLen := rfl
@[simp] theorem advanceBits_adlerA (n : Nat) (s : State) : (advanceBits n s).adlerA = s.adlerA := rfl
@[simp] theorem advanceBits_adlerB (n : Nat) (s : State) : (advanceBits n s).adlerB = s.adlerB := rfl
@[simp] theorem advanceBits_cur (n : Nat) (s : State) : (advanceBits n s).cur = s.cur := rfl
@[simp] theorem advanceBits_fileSize (n : Nat) (s : State) : (advanceBits n s).fileSize = s.fileSize := rfl
@[simp] theorem advanceBits_nframes (n : Nat) (s : State) : (advanceBits n s).nframes = s.nframes := rfl
@[simp] theorem advanceBits_width (n : Nat) (s : State) : (advanceBits n s).width = s.width := rfl
@[simp] theorem advanceBits_height (n : Nat) (s : State) : (advanceBits n s).height = s.height := rfl
@[simp] theorem advanceBits_depth (n : Nat) (s : State) : (advanceBits n s).depth = s.depth := rfl
@[simp] theorem advanceBits_bpp (n : Nat) (s : State) : (advanceBits n s).bpp = s.bpp := rfl
@[simp] theorem advanceBits_tkey (n : Nat) (s : State) : (advanceBits n s).tkey = s.tkey := rfl
@[simp] theorem advanceBits_frameIdx (n : Nat) (s : State) : (advanceBits n s).frameIdx = s.frameIdx := rfl
@[simp] theorem advanceBits_frameStart (n : Nat) (s : State) : (advanceBits n s).frameStart = s.frameStart := rfl
@[simp] theorem advanceBits_frameEnd (n : Nat) (s : State) : (advanceBits n s).frameEnd = s.frameEnd := rfl
@[simp] theorem advanceBits_chunksLeft (n : Nat) (s : State) : (advanceBits n s).chunksLeft = s.chunksLeft := rfl
@[simp] theorem advanceBits_chunkStart (n : Nat) (s : State) : (advanceBits n s).chunkStart = s.chunkStart := rfl
@[simp] theorem advanceBits_chunkEnd (n : Nat) (s : State) : (advanceBits n s).chunkEnd = s.chunkEnd := rfl
@[simp] theorem advanceBits_ctype (n : Nat) (s : State) : (advanceBits n s).ctype = s.ctype := rfl
@[simp] theorem advanceBits_q (n : Nat) (s : State) : (advanceBits n s).q = s.q := rfl
@[simp] theorem advanceBits_palK (n : Nat) (s : State) : (advanceBits n s).palK = s.palK := rfl
@[simp] theorem advanceBits_palLast (n : Nat) (s : State) : (advanceBits n s).palLast = s.palLast := rfl
@[simp] theorem advanceBits_palNew (n : Nat) (s : State) : (advanceBits n s).palNew = s.palNew := rfl
@[simp] theorem advanceBits_palCount (n : Nat) (s : State) : (advanceBits n s).palCount = s.palCount := rfl
@[simp] theorem advanceBits_celX (n : Nat) (s : State) : (advanceBits n s).celX = s.celX := rfl
@[simp] theorem advanceBits_celY (n : Nat) (s : State) : (advanceBits n s).celY = s.celY := rfl
@[simp] theorem advanceBits_celW (n : Nat) (s : State) : (advanceBits n s).celW = s.celW := rfl
@[simp] theorem advanceBits_celH (n : Nat) (s : State) : (advanceBits n s).celH = s.celH := rfl
@[simp] theorem advanceBits_tagI (n : Nat) (s : State) : (advanceBits n s).tagI = s.tagI := rfl
@[simp] theorem advanceBits_tagN (n : Nat) (s : State) : (advanceBits n s).tagN = s.tagN := rfl
@[simp] theorem advanceBits_sliceLabel (n : Nat) (s : State) : (advanceBits n s).sliceLabel = s.sliceLabel := rfl
@[simp] theorem advanceBits_flipL (n : Nat) (s : State) : (advanceBits n s).flipL = s.flipL := rfl

@[simp] theorem byteAlign_cfg (s : State) : (byteAlign s).cfg = s.cfg := rfl
@[simp] theorem byteAlign_ctrl (s : State) : (byteAlign s).ctrl = s.ctrl := rfl
@[simp] theorem byteAlign_status (s : State) : (byteAlign s).status = s.status := rfl
@[simp] theorem byteAlign_errInfo (s : State) : (byteAlign s).errInfo = s.errInfo := rfl
@[simp] theorem byteAlign_errOffset (s : State) : (byteAlign s).errOffset = s.errOffset := rfl
@[simp] theorem byteAlign_inLen (s : State) : (byteAlign s).inLen = s.inLen := rfl
@[simp] theorem byteAlign_res (s : State) : (byteAlign s).res = s.res := rfl
@[simp] theorem byteAlign_host (s : State) : (byteAlign s).host = s.host := rfl
@[simp] theorem byteAlign_rx (s : State) : (byteAlign s).rx = s.rx := rfl
@[simp] theorem byteAlign_inp (s : State) : (byteAlign s).inp = s.inp := rfl
@[simp] theorem byteAlign_inEpoch (s : State) : (byteAlign s).inEpoch = s.inEpoch := rfl
@[simp] theorem byteAlign_tile (s : State) : (byteAlign s).tile = s.tile := rfl
@[simp] theorem byteAlign_tileEpoch (s : State) : (byteAlign s).tileEpoch = s.tileEpoch := rfl
@[simp] theorem byteAlign_atlas (s : State) : (byteAlign s).atlas = s.atlas := rfl
@[simp] theorem byteAlign_atlasLen (s : State) : (byteAlign s).atlasLen = s.atlasLen := rfl
@[simp] theorem byteAlign_pal (s : State) : (byteAlign s).pal = s.pal := rfl
@[simp] theorem byteAlign_dur (s : State) : (byteAlign s).dur = s.dur := rfl
@[simp] theorem byteAlign_tags (s : State) : (byteAlign s).tags = s.tags := rfl
@[simp] theorem byteAlign_slices (s : State) : (byteAlign s).slices = s.slices := rfl
@[simp] theorem byteAlign_seq (s : State) : (byteAlign s).seq = s.seq := rfl
@[simp] theorem byteAlign_phase (s : State) : (byteAlign s).phase = s.phase := rfl
@[simp] theorem byteAlign_brStart (s : State) : (byteAlign s).brStart = s.brStart := rfl
@[simp] theorem byteAlign_brEnd (s : State) : (byteAlign s).brEnd = s.brEnd := rfl
@[simp] theorem byteAlign_brPos (s : State) : (byteAlign s).brPos = alignUp s.brPos := rfl
@[simp] theorem byteAlign_outPos (s : State) : (byteAlign s).outPos = s.outPos := rfl
@[simp] theorem byteAlign_outCap (s : State) : (byteAlign s).outCap = s.outCap := rfl
@[simp] theorem byteAlign_bfinal (s : State) : (byteAlign s).bfinal = s.bfinal := rfl
@[simp] theorem byteAlign_btype (s : State) : (byteAlign s).btype = s.btype := rfl
@[simp] theorem byteAlign_hlit (s : State) : (byteAlign s).hlit = s.hlit := rfl
@[simp] theorem byteAlign_hdist (s : State) : (byteAlign s).hdist = s.hdist := rfl
@[simp] theorem byteAlign_hclen (s : State) : (byteAlign s).hclen = s.hclen := rfl
@[simp] theorem byteAlign_clLens (s : State) : (byteAlign s).clLens = s.clLens := rfl
@[simp] theorem byteAlign_lens (s : State) : (byteAlign s).lens = s.lens := rfl
@[simp] theorem byteAlign_litTab (s : State) : (byteAlign s).litTab = s.litTab := rfl
@[simp] theorem byteAlign_distTab (s : State) : (byteAlign s).distTab = s.distTab := rfl
@[simp] theorem byteAlign_clTab (s : State) : (byteAlign s).clTab = s.clTab := rfl
@[simp] theorem byteAlign_clI (s : State) : (byteAlign s).clI = s.clI := rfl
@[simp] theorem byteAlign_lensN (s : State) : (byteAlign s).lensN = s.lensN := rfl
@[simp] theorem byteAlign_matchLen (s : State) : (byteAlign s).matchLen = s.matchLen := rfl
@[simp] theorem byteAlign_adlerA (s : State) : (byteAlign s).adlerA = s.adlerA := rfl
@[simp] theorem byteAlign_adlerB (s : State) : (byteAlign s).adlerB = s.adlerB := rfl
@[simp] theorem byteAlign_cur (s : State) : (byteAlign s).cur = s.cur := rfl
@[simp] theorem byteAlign_fileSize (s : State) : (byteAlign s).fileSize = s.fileSize := rfl
@[simp] theorem byteAlign_nframes (s : State) : (byteAlign s).nframes = s.nframes := rfl
@[simp] theorem byteAlign_width (s : State) : (byteAlign s).width = s.width := rfl
@[simp] theorem byteAlign_height (s : State) : (byteAlign s).height = s.height := rfl
@[simp] theorem byteAlign_depth (s : State) : (byteAlign s).depth = s.depth := rfl
@[simp] theorem byteAlign_bpp (s : State) : (byteAlign s).bpp = s.bpp := rfl
@[simp] theorem byteAlign_tkey (s : State) : (byteAlign s).tkey = s.tkey := rfl
@[simp] theorem byteAlign_frameIdx (s : State) : (byteAlign s).frameIdx = s.frameIdx := rfl
@[simp] theorem byteAlign_frameStart (s : State) : (byteAlign s).frameStart = s.frameStart := rfl
@[simp] theorem byteAlign_frameEnd (s : State) : (byteAlign s).frameEnd = s.frameEnd := rfl
@[simp] theorem byteAlign_chunksLeft (s : State) : (byteAlign s).chunksLeft = s.chunksLeft := rfl
@[simp] theorem byteAlign_chunkStart (s : State) : (byteAlign s).chunkStart = s.chunkStart := rfl
@[simp] theorem byteAlign_chunkEnd (s : State) : (byteAlign s).chunkEnd = s.chunkEnd := rfl
@[simp] theorem byteAlign_ctype (s : State) : (byteAlign s).ctype = s.ctype := rfl
@[simp] theorem byteAlign_q (s : State) : (byteAlign s).q = s.q := rfl
@[simp] theorem byteAlign_palK (s : State) : (byteAlign s).palK = s.palK := rfl
@[simp] theorem byteAlign_palLast (s : State) : (byteAlign s).palLast = s.palLast := rfl
@[simp] theorem byteAlign_palNew (s : State) : (byteAlign s).palNew = s.palNew := rfl
@[simp] theorem byteAlign_palCount (s : State) : (byteAlign s).palCount = s.palCount := rfl
@[simp] theorem byteAlign_celX (s : State) : (byteAlign s).celX = s.celX := rfl
@[simp] theorem byteAlign_celY (s : State) : (byteAlign s).celY = s.celY := rfl
@[simp] theorem byteAlign_celW (s : State) : (byteAlign s).celW = s.celW := rfl
@[simp] theorem byteAlign_celH (s : State) : (byteAlign s).celH = s.celH := rfl
@[simp] theorem byteAlign_tagI (s : State) : (byteAlign s).tagI = s.tagI := rfl
@[simp] theorem byteAlign_tagN (s : State) : (byteAlign s).tagN = s.tagN := rfl
@[simp] theorem byteAlign_sliceLabel (s : State) : (byteAlign s).sliceLabel = s.sliceLabel := rfl
@[simp] theorem byteAlign_flipL (s : State) : (byteAlign s).flipL = s.flipL := rfl

@[simp] theorem startStream_cfg (ps pe cap : Nat) (s : State) : (startStream ps pe cap s).cfg = s.cfg := rfl
@[simp] theorem startStream_ctrl (ps pe cap : Nat) (s : State) : (startStream ps pe cap s).ctrl = s.ctrl := rfl
@[simp] theorem startStream_status (ps pe cap : Nat) (s : State) : (startStream ps pe cap s).status = s.status := rfl
@[simp] theorem startStream_errInfo (ps pe cap : Nat) (s : State) : (startStream ps pe cap s).errInfo = s.errInfo := rfl
@[simp] theorem startStream_errOffset (ps pe cap : Nat) (s : State) : (startStream ps pe cap s).errOffset = s.errOffset := rfl
@[simp] theorem startStream_inLen (ps pe cap : Nat) (s : State) : (startStream ps pe cap s).inLen = s.inLen := rfl
@[simp] theorem startStream_res (ps pe cap : Nat) (s : State) : (startStream ps pe cap s).res = s.res := rfl
@[simp] theorem startStream_host (ps pe cap : Nat) (s : State) : (startStream ps pe cap s).host = s.host := rfl
@[simp] theorem startStream_rx (ps pe cap : Nat) (s : State) : (startStream ps pe cap s).rx = s.rx := rfl
@[simp] theorem startStream_inp (ps pe cap : Nat) (s : State) : (startStream ps pe cap s).inp = s.inp := rfl
@[simp] theorem startStream_inEpoch (ps pe cap : Nat) (s : State) : (startStream ps pe cap s).inEpoch = s.inEpoch := rfl
@[simp] theorem startStream_tile (ps pe cap : Nat) (s : State) : (startStream ps pe cap s).tile = [] := rfl
@[simp] theorem startStream_tileEpoch (ps pe cap : Nat) (s : State) : (startStream ps pe cap s).tileEpoch = s.tileEpoch + 1 := rfl
@[simp] theorem startStream_atlas (ps pe cap : Nat) (s : State) : (startStream ps pe cap s).atlas = s.atlas := rfl
@[simp] theorem startStream_atlasLen (ps pe cap : Nat) (s : State) : (startStream ps pe cap s).atlasLen = s.atlasLen := rfl
@[simp] theorem startStream_pal (ps pe cap : Nat) (s : State) : (startStream ps pe cap s).pal = s.pal := rfl
@[simp] theorem startStream_dur (ps pe cap : Nat) (s : State) : (startStream ps pe cap s).dur = s.dur := rfl
@[simp] theorem startStream_tags (ps pe cap : Nat) (s : State) : (startStream ps pe cap s).tags = s.tags := rfl
@[simp] theorem startStream_slices (ps pe cap : Nat) (s : State) : (startStream ps pe cap s).slices = s.slices := rfl
@[simp] theorem startStream_seq (ps pe cap : Nat) (s : State) : (startStream ps pe cap s).seq = .zHdr := rfl
@[simp] theorem startStream_phase (ps pe cap : Nat) (s : State) : (startStream ps pe cap s).phase = .head := rfl
@[simp] theorem startStream_brStart (ps pe cap : Nat) (s : State) : (startStream ps pe cap s).brStart = ps := rfl
@[simp] theorem startStream_brEnd (ps pe cap : Nat) (s : State) : (startStream ps pe cap s).brEnd = pe := rfl
@[simp] theorem startStream_brPos (ps pe cap : Nat) (s : State) : (startStream ps pe cap s).brPos = 0 := rfl
@[simp] theorem startStream_outPos (ps pe cap : Nat) (s : State) : (startStream ps pe cap s).outPos = 0 := rfl
@[simp] theorem startStream_outCap (ps pe cap : Nat) (s : State) : (startStream ps pe cap s).outCap = cap := rfl
@[simp] theorem startStream_bfinal (ps pe cap : Nat) (s : State) : (startStream ps pe cap s).bfinal = s.bfinal := rfl
@[simp] theorem startStream_btype (ps pe cap : Nat) (s : State) : (startStream ps pe cap s).btype = s.btype := rfl
@[simp] theorem startStream_hlit (ps pe cap : Nat) (s : State) : (startStream ps pe cap s).hlit = s.hlit := rfl
@[simp] theorem startStream_hdist (ps pe cap : Nat) (s : State) : (startStream ps pe cap s).hdist = s.hdist := rfl
@[simp] theorem startStream_hclen (ps pe cap : Nat) (s : State) : (startStream ps pe cap s).hclen = s.hclen := rfl
@[simp] theorem startStream_clLens (ps pe cap : Nat) (s : State) : (startStream ps pe cap s).clLens = s.clLens := rfl
@[simp] theorem startStream_lens (ps pe cap : Nat) (s : State) : (startStream ps pe cap s).lens = s.lens := rfl
@[simp] theorem startStream_litTab (ps pe cap : Nat) (s : State) : (startStream ps pe cap s).litTab = s.litTab := rfl
@[simp] theorem startStream_distTab (ps pe cap : Nat) (s : State) : (startStream ps pe cap s).distTab = s.distTab := rfl
@[simp] theorem startStream_clTab (ps pe cap : Nat) (s : State) : (startStream ps pe cap s).clTab = s.clTab := rfl
@[simp] theorem startStream_clI (ps pe cap : Nat) (s : State) : (startStream ps pe cap s).clI = s.clI := rfl
@[simp] theorem startStream_lensN (ps pe cap : Nat) (s : State) : (startStream ps pe cap s).lensN = s.lensN := rfl
@[simp] theorem startStream_matchLen (ps pe cap : Nat) (s : State) : (startStream ps pe cap s).matchLen = s.matchLen := rfl
@[simp] theorem startStream_adlerA (ps pe cap : Nat) (s : State) : (startStream ps pe cap s).adlerA = 1 := rfl
@[simp] theorem startStream_adlerB (ps pe cap : Nat) (s : State) : (startStream ps pe cap s).adlerB = 0 := rfl
@[simp] theorem startStream_cur (ps pe cap : Nat) (s : State) : (startStream ps pe cap s).cur = s.cur := rfl
@[simp] theorem startStream_fileSize (ps pe cap : Nat) (s : State) : (startStream ps pe cap s).fileSize = s.fileSize := rfl
@[simp] theorem startStream_nframes (ps pe cap : Nat) (s : State) : (startStream ps pe cap s).nframes = s.nframes := rfl
@[simp] theorem startStream_width (ps pe cap : Nat) (s : State) : (startStream ps pe cap s).width = s.width := rfl
@[simp] theorem startStream_height (ps pe cap : Nat) (s : State) : (startStream ps pe cap s).height = s.height := rfl
@[simp] theorem startStream_depth (ps pe cap : Nat) (s : State) : (startStream ps pe cap s).depth = s.depth := rfl
@[simp] theorem startStream_bpp (ps pe cap : Nat) (s : State) : (startStream ps pe cap s).bpp = s.bpp := rfl
@[simp] theorem startStream_tkey (ps pe cap : Nat) (s : State) : (startStream ps pe cap s).tkey = s.tkey := rfl
@[simp] theorem startStream_frameIdx (ps pe cap : Nat) (s : State) : (startStream ps pe cap s).frameIdx = s.frameIdx := rfl
@[simp] theorem startStream_frameStart (ps pe cap : Nat) (s : State) : (startStream ps pe cap s).frameStart = s.frameStart := rfl
@[simp] theorem startStream_frameEnd (ps pe cap : Nat) (s : State) : (startStream ps pe cap s).frameEnd = s.frameEnd := rfl
@[simp] theorem startStream_chunksLeft (ps pe cap : Nat) (s : State) : (startStream ps pe cap s).chunksLeft = s.chunksLeft := rfl
@[simp] theorem startStream_chunkStart (ps pe cap : Nat) (s : State) : (startStream ps pe cap s).chunkStart = s.chunkStart := rfl
@[simp] theorem startStream_chunkEnd (ps pe cap : Nat) (s : State) : (startStream ps pe cap s).chunkEnd = s.chunkEnd := rfl
@[simp] theorem startStream_ctype (ps pe cap : Nat) (s : State) : (startStream ps pe cap s).ctype = s.ctype := rfl
@[simp] theorem startStream_q (ps pe cap : Nat) (s : State) : (startStream ps pe cap s).q = s.q := rfl
@[simp] theorem startStream_palK (ps pe cap : Nat) (s : State) : (startStream ps pe cap s).palK = s.palK := rfl
@[simp] theorem startStream_palLast (ps pe cap : Nat) (s : State) : (startStream ps pe cap s).palLast = s.palLast := rfl
@[simp] theorem startStream_palNew (ps pe cap : Nat) (s : State) : (startStream ps pe cap s).palNew = s.palNew := rfl
@[simp] theorem startStream_palCount (ps pe cap : Nat) (s : State) : (startStream ps pe cap s).palCount = s.palCount := rfl
@[simp] theorem startStream_celX (ps pe cap : Nat) (s : State) : (startStream ps pe cap s).celX = s.celX := rfl
@[simp] theorem startStream_celY (ps pe cap : Nat) (s : State) : (startStream ps pe cap s).celY = s.celY := rfl
@[simp] theorem startStream_celW (ps pe cap : Nat) (s : State) : (startStream ps pe cap s).celW = s.celW := rfl
@[simp] theorem startStream_celH (ps pe cap : Nat) (s : State) : (startStream ps pe cap s).celH = s.celH := rfl
@[simp] theorem startStream_tagI (ps pe cap : Nat) (s : State) : (startStream ps pe cap s).tagI = s.tagI := rfl
@[simp] theorem startStream_tagN (ps pe cap : Nat) (s : State) : (startStream ps pe cap s).tagN = s.tagN := rfl
@[simp] theorem startStream_sliceLabel (ps pe cap : Nat) (s : State) : (startStream ps pe cap s).sliceLabel = s.sliceLabel := rfl
@[simp] theorem startStream_flipL (ps pe cap : Nat) (s : State) : (startStream ps pe cap s).flipL = s.flipL := rfl

@[simp] theorem put_cfg (b : Byte) (s : State) : (put b s).cfg = s.cfg := rfl
@[simp] theorem put_ctrl (b : Byte) (s : State) : (put b s).ctrl = s.ctrl := rfl
@[simp] theorem put_status (b : Byte) (s : State) : (put b s).status = s.status := rfl
@[simp] theorem put_errInfo (b : Byte) (s : State) : (put b s).errInfo = s.errInfo := rfl
@[simp] theorem put_errOffset (b : Byte) (s : State) : (put b s).errOffset = s.errOffset := rfl
@[simp] theorem put_inLen (b : Byte) (s : State) : (put b s).inLen = s.inLen := rfl
@[simp] theorem put_res (b : Byte) (s : State) : (put b s).res = s.res := rfl
@[simp] theorem put_host (b : Byte) (s : State) : (put b s).host = s.host := rfl
@[simp] theorem put_rx (b : Byte) (s : State) : (put b s).rx = s.rx := rfl
@[simp] theorem put_inp (b : Byte) (s : State) : (put b s).inp = s.inp := rfl
@[simp] theorem put_inEpoch (b : Byte) (s : State) : (put b s).inEpoch = s.inEpoch := rfl
@[simp] theorem put_tile (b : Byte) (s : State) : (put b s).tile = s.tile.write none s.outPos b := rfl
@[simp] theorem put_tileEpoch (b : Byte) (s : State) : (put b s).tileEpoch = s.tileEpoch := rfl
@[simp] theorem put_atlas (b : Byte) (s : State) : (put b s).atlas = s.atlas := rfl
@[simp] theorem put_atlasLen (b : Byte) (s : State) : (put b s).atlasLen = s.atlasLen := rfl
@[simp] theorem put_pal (b : Byte) (s : State) : (put b s).pal = s.pal := rfl
@[simp] theorem put_dur (b : Byte) (s : State) : (put b s).dur = s.dur := rfl
@[simp] theorem put_tags (b : Byte) (s : State) : (put b s).tags = s.tags := rfl
@[simp] theorem put_slices (b : Byte) (s : State) : (put b s).slices = s.slices := rfl
@[simp] theorem put_seq (b : Byte) (s : State) : (put b s).seq = s.seq := rfl
@[simp] theorem put_phase (b : Byte) (s : State) : (put b s).phase = s.phase := rfl
@[simp] theorem put_brStart (b : Byte) (s : State) : (put b s).brStart = s.brStart := rfl
@[simp] theorem put_brEnd (b : Byte) (s : State) : (put b s).brEnd = s.brEnd := rfl
@[simp] theorem put_brPos (b : Byte) (s : State) : (put b s).brPos = s.brPos := rfl
@[simp] theorem put_outPos (b : Byte) (s : State) : (put b s).outPos = s.outPos + 1 := rfl
@[simp] theorem put_outCap (b : Byte) (s : State) : (put b s).outCap = s.outCap := rfl
@[simp] theorem put_bfinal (b : Byte) (s : State) : (put b s).bfinal = s.bfinal := rfl
@[simp] theorem put_btype (b : Byte) (s : State) : (put b s).btype = s.btype := rfl
@[simp] theorem put_hlit (b : Byte) (s : State) : (put b s).hlit = s.hlit := rfl
@[simp] theorem put_hdist (b : Byte) (s : State) : (put b s).hdist = s.hdist := rfl
@[simp] theorem put_hclen (b : Byte) (s : State) : (put b s).hclen = s.hclen := rfl
@[simp] theorem put_clLens (b : Byte) (s : State) : (put b s).clLens = s.clLens := rfl
@[simp] theorem put_lens (b : Byte) (s : State) : (put b s).lens = s.lens := rfl
@[simp] theorem put_litTab (b : Byte) (s : State) : (put b s).litTab = s.litTab := rfl
@[simp] theorem put_distTab (b : Byte) (s : State) : (put b s).distTab = s.distTab := rfl
@[simp] theorem put_clTab (b : Byte) (s : State) : (put b s).clTab = s.clTab := rfl
@[simp] theorem put_clI (b : Byte) (s : State) : (put b s).clI = s.clI := rfl
@[simp] theorem put_lensN (b : Byte) (s : State) : (put b s).lensN = s.lensN := rfl
@[simp] theorem put_matchLen (b : Byte) (s : State) : (put b s).matchLen = s.matchLen := rfl
@[simp] theorem put_adlerA (b : Byte) (s : State) : (put b s).adlerA = adlerStepA s.adlerA b := rfl
@[simp] theorem put_adlerB (b : Byte) (s : State) : (put b s).adlerB = adlerStepB s.adlerA s.adlerB b := rfl
@[simp] theorem put_cur (b : Byte) (s : State) : (put b s).cur = s.cur := rfl
@[simp] theorem put_fileSize (b : Byte) (s : State) : (put b s).fileSize = s.fileSize := rfl
@[simp] theorem put_nframes (b : Byte) (s : State) : (put b s).nframes = s.nframes := rfl
@[simp] theorem put_width (b : Byte) (s : State) : (put b s).width = s.width := rfl
@[simp] theorem put_height (b : Byte) (s : State) : (put b s).height = s.height := rfl
@[simp] theorem put_depth (b : Byte) (s : State) : (put b s).depth = s.depth := rfl
@[simp] theorem put_bpp (b : Byte) (s : State) : (put b s).bpp = s.bpp := rfl
@[simp] theorem put_tkey (b : Byte) (s : State) : (put b s).tkey = s.tkey := rfl
@[simp] theorem put_frameIdx (b : Byte) (s : State) : (put b s).frameIdx = s.frameIdx := rfl
@[simp] theorem put_frameStart (b : Byte) (s : State) : (put b s).frameStart = s.frameStart := rfl
@[simp] theorem put_frameEnd (b : Byte) (s : State) : (put b s).frameEnd = s.frameEnd := rfl
@[simp] theorem put_chunksLeft (b : Byte) (s : State) : (put b s).chunksLeft = s.chunksLeft := rfl
@[simp] theorem put_chunkStart (b : Byte) (s : State) : (put b s).chunkStart = s.chunkStart := rfl
@[simp] theorem put_chunkEnd (b : Byte) (s : State) : (put b s).chunkEnd = s.chunkEnd := rfl
@[simp] theorem put_ctype (b : Byte) (s : State) : (put b s).ctype = s.ctype := rfl
@[simp] theorem put_q (b : Byte) (s : State) : (put b s).q = s.q := rfl
@[simp] theorem put_palK (b : Byte) (s : State) : (put b s).palK = s.palK := rfl
@[simp] theorem put_palLast (b : Byte) (s : State) : (put b s).palLast = s.palLast := rfl
@[simp] theorem put_palNew (b : Byte) (s : State) : (put b s).palNew = s.palNew := rfl
@[simp] theorem put_palCount (b : Byte) (s : State) : (put b s).palCount = s.palCount := rfl
@[simp] theorem put_celX (b : Byte) (s : State) : (put b s).celX = s.celX := rfl
@[simp] theorem put_celY (b : Byte) (s : State) : (put b s).celY = s.celY := rfl
@[simp] theorem put_celW (b : Byte) (s : State) : (put b s).celW = s.celW := rfl
@[simp] theorem put_celH (b : Byte) (s : State) : (put b s).celH = s.celH := rfl
@[simp] theorem put_tagI (b : Byte) (s : State) : (put b s).tagI = s.tagI := rfl
@[simp] theorem put_tagN (b : Byte) (s : State) : (put b s).tagN = s.tagN := rfl
@[simp] theorem put_sliceLabel (b : Byte) (s : State) : (put b s).sliceLabel = s.sliceLabel := rfl
@[simp] theorem put_flipL (b : Byte) (s : State) : (put b s).flipL = s.flipL := rfl

@[simp] theorem endBlock_cfg (s : State) : (endBlock s).cfg = s.cfg := rfl
@[simp] theorem endBlock_ctrl (s : State) : (endBlock s).ctrl = s.ctrl := rfl
@[simp] theorem endBlock_status (s : State) : (endBlock s).status = s.status := rfl
@[simp] theorem endBlock_errInfo (s : State) : (endBlock s).errInfo = s.errInfo := rfl
@[simp] theorem endBlock_errOffset (s : State) : (endBlock s).errOffset = s.errOffset := rfl
@[simp] theorem endBlock_inLen (s : State) : (endBlock s).inLen = s.inLen := rfl
@[simp] theorem endBlock_res (s : State) : (endBlock s).res = s.res := rfl
@[simp] theorem endBlock_host (s : State) : (endBlock s).host = s.host := rfl
@[simp] theorem endBlock_rx (s : State) : (endBlock s).rx = s.rx := rfl
@[simp] theorem endBlock_inp (s : State) : (endBlock s).inp = s.inp := rfl
@[simp] theorem endBlock_inEpoch (s : State) : (endBlock s).inEpoch = s.inEpoch := rfl
@[simp] theorem endBlock_tile (s : State) : (endBlock s).tile = s.tile := rfl
@[simp] theorem endBlock_tileEpoch (s : State) : (endBlock s).tileEpoch = s.tileEpoch := rfl
@[simp] theorem endBlock_atlas (s : State) : (endBlock s).atlas = s.atlas := rfl
@[simp] theorem endBlock_atlasLen (s : State) : (endBlock s).atlasLen = s.atlasLen := rfl
@[simp] theorem endBlock_pal (s : State) : (endBlock s).pal = s.pal := rfl
@[simp] theorem endBlock_dur (s : State) : (endBlock s).dur = s.dur := rfl
@[simp] theorem endBlock_tags (s : State) : (endBlock s).tags = s.tags := rfl
@[simp] theorem endBlock_slices (s : State) : (endBlock s).slices = s.slices := rfl
@[simp] theorem endBlock_seq (s : State) : (endBlock s).seq = if s.bfinal then .trailer else .blkHdr := rfl
@[simp] theorem endBlock_phase (s : State) : (endBlock s).phase = .head := rfl
@[simp] theorem endBlock_brStart (s : State) : (endBlock s).brStart = s.brStart := rfl
@[simp] theorem endBlock_brEnd (s : State) : (endBlock s).brEnd = s.brEnd := rfl
@[simp] theorem endBlock_brPos (s : State) : (endBlock s).brPos = s.brPos := rfl
@[simp] theorem endBlock_outPos (s : State) : (endBlock s).outPos = s.outPos := rfl
@[simp] theorem endBlock_outCap (s : State) : (endBlock s).outCap = s.outCap := rfl
@[simp] theorem endBlock_bfinal (s : State) : (endBlock s).bfinal = s.bfinal := rfl
@[simp] theorem endBlock_btype (s : State) : (endBlock s).btype = s.btype := rfl
@[simp] theorem endBlock_hlit (s : State) : (endBlock s).hlit = s.hlit := rfl
@[simp] theorem endBlock_hdist (s : State) : (endBlock s).hdist = s.hdist := rfl
@[simp] theorem endBlock_hclen (s : State) : (endBlock s).hclen = s.hclen := rfl
@[simp] theorem endBlock_clLens (s : State) : (endBlock s).clLens = s.clLens := rfl
@[simp] theorem endBlock_lens (s : State) : (endBlock s).lens = s.lens := rfl
@[simp] theorem endBlock_litTab (s : State) : (endBlock s).litTab = s.litTab := rfl
@[simp] theorem endBlock_distTab (s : State) : (endBlock s).distTab = s.distTab := rfl
@[simp] theorem endBlock_clTab (s : State) : (endBlock s).clTab = s.clTab := rfl
@[simp] theorem endBlock_clI (s : State) : (endBlock s).clI = s.clI := rfl
@[simp] theorem endBlock_lensN (s : State) : (endBlock s).lensN = s.lensN := rfl
@[simp] theorem endBlock_matchLen (s : State) : (endBlock s).matchLen = s.matchLen := rfl
@[simp] theorem endBlock_adlerA (s : State) : (endBlock s).adlerA = s.adlerA := rfl
@[simp] theorem endBlock_adlerB (s : State) : (endBlock s).adlerB = s.adlerB := rfl
@[simp] theorem endBlock_cur (s : State) : (endBlock s).cur = s.cur := rfl
@[simp] theorem endBlock_fileSize (s : State) : (endBlock s).fileSize = s.fileSize := rfl
@[simp] theorem endBlock_nframes (s : State) : (endBlock s).nframes = s.nframes := rfl
@[simp] theorem endBlock_width (s : State) : (endBlock s).width = s.width := rfl
@[simp] theorem endBlock_height (s : State) : (endBlock s).height = s.height := rfl
@[simp] theorem endBlock_depth (s : State) : (endBlock s).depth = s.depth := rfl
@[simp] theorem endBlock_bpp (s : State) : (endBlock s).bpp = s.bpp := rfl
@[simp] theorem endBlock_tkey (s : State) : (endBlock s).tkey = s.tkey := rfl
@[simp] theorem endBlock_frameIdx (s : State) : (endBlock s).frameIdx = s.frameIdx := rfl
@[simp] theorem endBlock_frameStart (s : State) : (endBlock s).frameStart = s.frameStart := rfl
@[simp] theorem endBlock_frameEnd (s : State) : (endBlock s).frameEnd = s.frameEnd := rfl
@[simp] theorem endBlock_chunksLeft (s : State) : (endBlock s).chunksLeft = s.chunksLeft := rfl
@[simp] theorem endBlock_chunkStart (s : State) : (endBlock s).chunkStart = s.chunkStart := rfl
@[simp] theorem endBlock_chunkEnd (s : State) : (endBlock s).chunkEnd = s.chunkEnd := rfl
@[simp] theorem endBlock_ctype (s : State) : (endBlock s).ctype = s.ctype := rfl
@[simp] theorem endBlock_q (s : State) : (endBlock s).q = s.q := rfl
@[simp] theorem endBlock_palK (s : State) : (endBlock s).palK = s.palK := rfl
@[simp] theorem endBlock_palLast (s : State) : (endBlock s).palLast = s.palLast := rfl
@[simp] theorem endBlock_palNew (s : State) : (endBlock s).palNew = s.palNew := rfl
@[simp] theorem endBlock_palCount (s : State) : (endBlock s).palCount = s.palCount := rfl
@[simp] theorem endBlock_celX (s : State) : (endBlock s).celX = s.celX := rfl
@[simp] theorem endBlock_celY (s : State) : (endBlock s).celY = s.celY := rfl
@[simp] theorem endBlock_celW (s : State) : (endBlock s).celW = s.celW := rfl
@[simp] theorem endBlock_celH (s : State) : (endBlock s).celH = s.celH := rfl
@[simp] theorem endBlock_tagI (s : State) : (endBlock s).tagI = s.tagI := rfl
@[simp] theorem endBlock_tagN (s : State) : (endBlock s).tagN = s.tagN := rfl
@[simp] theorem endBlock_sliceLabel (s : State) : (endBlock s).sliceLabel = s.sliceLabel := rfl
@[simp] theorem endBlock_flipL (s : State) : (endBlock s).flipL = s.flipL := rfl

@[simp] theorem enterFrame_cfg (s : State) : (enterFrame s).cfg = s.cfg := rfl
@[simp] theorem enterFrame_ctrl (s : State) : (enterFrame s).ctrl = s.ctrl := rfl
@[simp] theorem enterFrame_status (s : State) : (enterFrame s).status = s.status := rfl
@[simp] theorem enterFrame_errInfo (s : State) : (enterFrame s).errInfo = s.errInfo := rfl
@[simp] theorem enterFrame_errOffset (s : State) : (enterFrame s).errOffset = s.errOffset := rfl
@[simp] theorem enterFrame_inLen (s : State) : (enterFrame s).inLen = s.inLen := rfl
@[simp] theorem enterFrame_res (s : State) : (enterFrame s).res = s.res := rfl
@[simp] theorem enterFrame_host (s : State) : (enterFrame s).host = s.host := rfl
@[simp] theorem enterFrame_rx (s : State) : (enterFrame s).rx = s.rx := rfl
@[simp] theorem enterFrame_inp (s : State) : (enterFrame s).inp = s.inp := rfl
@[simp] theorem enterFrame_inEpoch (s : State) : (enterFrame s).inEpoch = s.inEpoch := rfl
@[simp] theorem enterFrame_tile (s : State) : (enterFrame s).tile = s.tile := rfl
@[simp] theorem enterFrame_tileEpoch (s : State) : (enterFrame s).tileEpoch = s.tileEpoch := rfl
@[simp] theorem enterFrame_atlas (s : State) : (enterFrame s).atlas = s.atlas := rfl
@[simp] theorem enterFrame_atlasLen (s : State) : (enterFrame s).atlasLen = s.atlasLen := rfl
@[simp] theorem enterFrame_pal (s : State) : (enterFrame s).pal = s.pal := rfl
@[simp] theorem enterFrame_dur (s : State) : (enterFrame s).dur = s.dur := rfl
@[simp] theorem enterFrame_tags (s : State) : (enterFrame s).tags = s.tags := rfl
@[simp] theorem enterFrame_slices (s : State) : (enterFrame s).slices = s.slices := rfl
@[simp] theorem enterFrame_seq (s : State) : (enterFrame s).seq = s.seq := rfl
@[simp] theorem enterFrame_phase (s : State) : (enterFrame s).phase = s.phase := rfl
@[simp] theorem enterFrame_brStart (s : State) : (enterFrame s).brStart = s.brStart := rfl
@[simp] theorem enterFrame_brEnd (s : State) : (enterFrame s).brEnd = s.brEnd := rfl
@[simp] theorem enterFrame_brPos (s : State) : (enterFrame s).brPos = s.brPos := rfl
@[simp] theorem enterFrame_outPos (s : State) : (enterFrame s).outPos = s.outPos := rfl
@[simp] theorem enterFrame_outCap (s : State) : (enterFrame s).outCap = s.outCap := rfl
@[simp] theorem enterFrame_bfinal (s : State) : (enterFrame s).bfinal = s.bfinal := rfl
@[simp] theorem enterFrame_btype (s : State) : (enterFrame s).btype = s.btype := rfl
@[simp] theorem enterFrame_hlit (s : State) : (enterFrame s).hlit = s.hlit := rfl
@[simp] theorem enterFrame_hdist (s : State) : (enterFrame s).hdist = s.hdist := rfl
@[simp] theorem enterFrame_hclen (s : State) : (enterFrame s).hclen = s.hclen := rfl
@[simp] theorem enterFrame_clLens (s : State) : (enterFrame s).clLens = s.clLens := rfl
@[simp] theorem enterFrame_lens (s : State) : (enterFrame s).lens = s.lens := rfl
@[simp] theorem enterFrame_litTab (s : State) : (enterFrame s).litTab = s.litTab := rfl
@[simp] theorem enterFrame_distTab (s : State) : (enterFrame s).distTab = s.distTab := rfl
@[simp] theorem enterFrame_clTab (s : State) : (enterFrame s).clTab = s.clTab := rfl
@[simp] theorem enterFrame_clI (s : State) : (enterFrame s).clI = s.clI := rfl
@[simp] theorem enterFrame_lensN (s : State) : (enterFrame s).lensN = s.lensN := rfl
@[simp] theorem enterFrame_matchLen (s : State) : (enterFrame s).matchLen = s.matchLen := rfl
@[simp] theorem enterFrame_adlerA (s : State) : (enterFrame s).adlerA = s.adlerA := rfl
@[simp] theorem enterFrame_adlerB (s : State) : (enterFrame s).adlerB = s.adlerB := rfl
@[simp] theorem enterFrame_cur (s : State) : (enterFrame s).cur = s.cur := rfl
@[simp] theorem enterFrame_fileSize (s : State) : (enterFrame s).fileSize = s.fileSize := rfl
@[simp] theorem enterFrame_nframes (s : State) : (enterFrame s).nframes = s.nframes := rfl
@[simp] theorem enterFrame_width (s : State) : (enterFrame s).width = s.width := rfl
@[simp] theorem enterFrame_height (s : State) : (enterFrame s).height = s.height := rfl
@[simp] theorem enterFrame_depth (s : State) : (enterFrame s).depth = s.depth := rfl
@[simp] theorem enterFrame_bpp (s : State) : (enterFrame s).bpp = s.bpp := rfl
@[simp] theorem enterFrame_tkey (s : State) : (enterFrame s).tkey = s.tkey := rfl
@[simp] theorem enterFrame_frameIdx (s : State) : (enterFrame s).frameIdx = s.frameIdx := rfl
@[simp] theorem enterFrame_frameStart (s : State) : (enterFrame s).frameStart = s.cur := rfl
@[simp] theorem enterFrame_frameEnd (s : State) : (enterFrame s).frameEnd = s.frameEnd := rfl
@[simp] theorem enterFrame_chunksLeft (s : State) : (enterFrame s).chunksLeft = s.chunksLeft := rfl
@[simp] theorem enterFrame_chunkStart (s : State) : (enterFrame s).chunkStart = s.chunkStart := rfl
@[simp] theorem enterFrame_chunkEnd (s : State) : (enterFrame s).chunkEnd = s.chunkEnd := rfl
@[simp] theorem enterFrame_ctype (s : State) : (enterFrame s).ctype = s.ctype := rfl
@[simp] theorem enterFrame_q (s : State) : (enterFrame s).q = s.q := rfl
@[simp] theorem enterFrame_palK (s : State) : (enterFrame s).palK = s.palK := rfl
@[simp] theorem enterFrame_palLast (s : State) : (enterFrame s).palLast = s.palLast := rfl
@[simp] theorem enterFrame_palNew (s : State) : (enterFrame s).palNew = s.palNew := rfl
@[simp] theorem enterFrame_palCount (s : State) : (enterFrame s).palCount = s.palCount := rfl
@[simp] theorem enterFrame_celX (s : State) : (enterFrame s).celX = s.celX := rfl
@[simp] theorem enterFrame_celY (s : State) : (enterFrame s).celY = s.celY := rfl
@[simp] theorem enterFrame_celW (s : State) : (enterFrame s).celW = s.celW := rfl
@[simp] theorem enterFrame_celH (s : State) : (enterFrame s).celH = s.celH := rfl
@[simp] theorem enterFrame_tagI (s : State) : (enterFrame s).tagI = s.tagI := rfl
@[simp] theorem enterFrame_tagN (s : State) : (enterFrame s).tagN = s.tagN := rfl
@[simp] theorem enterFrame_sliceLabel (s : State) : (enterFrame s).sliceLabel = s.sliceLabel := rfl
@[simp] theorem enterFrame_flipL (s : State) : (enterFrame s).flipL = s.flipL := rfl

@[simp] theorem enterChunk_cfg (s : State) : (enterChunk s).cfg = s.cfg := rfl
@[simp] theorem enterChunk_ctrl (s : State) : (enterChunk s).ctrl = s.ctrl := rfl
@[simp] theorem enterChunk_status (s : State) : (enterChunk s).status = s.status := rfl
@[simp] theorem enterChunk_errInfo (s : State) : (enterChunk s).errInfo = s.errInfo := rfl
@[simp] theorem enterChunk_errOffset (s : State) : (enterChunk s).errOffset = s.errOffset := rfl
@[simp] theorem enterChunk_inLen (s : State) : (enterChunk s).inLen = s.inLen := rfl
@[simp] theorem enterChunk_res (s : State) : (enterChunk s).res = s.res := rfl
@[simp] theorem enterChunk_host (s : State) : (enterChunk s).host = s.host := rfl
@[simp] theorem enterChunk_rx (s : State) : (enterChunk s).rx = s.rx := rfl
@[simp] theorem enterChunk_inp (s : State) : (enterChunk s).inp = s.inp := rfl
@[simp] theorem enterChunk_inEpoch (s : State) : (enterChunk s).inEpoch = s.inEpoch := rfl
@[simp] theorem enterChunk_tile (s : State) : (enterChunk s).tile = s.tile := rfl
@[simp] theorem enterChunk_tileEpoch (s : State) : (enterChunk s).tileEpoch = s.tileEpoch := rfl
@[simp] theorem enterChunk_atlas (s : State) : (enterChunk s).atlas = s.atlas := rfl
@[simp] theorem enterChunk_atlasLen (s : State) : (enterChunk s).atlasLen = s.atlasLen := rfl
@[simp] theorem enterChunk_pal (s : State) : (enterChunk s).pal = s.pal := rfl
@[simp] theorem enterChunk_dur (s : State) : (enterChunk s).dur = s.dur := rfl
@[simp] theorem enterChunk_tags (s : State) : (enterChunk s).tags = s.tags := rfl
@[simp] theorem enterChunk_slices (s : State) : (enterChunk s).slices = s.slices := rfl
@[simp] theorem enterChunk_seq (s : State) : (enterChunk s).seq = s.seq := rfl
@[simp] theorem enterChunk_phase (s : State) : (enterChunk s).phase = s.phase := rfl
@[simp] theorem enterChunk_brStart (s : State) : (enterChunk s).brStart = s.brStart := rfl
@[simp] theorem enterChunk_brEnd (s : State) : (enterChunk s).brEnd = s.brEnd := rfl
@[simp] theorem enterChunk_brPos (s : State) : (enterChunk s).brPos = s.brPos := rfl
@[simp] theorem enterChunk_outPos (s : State) : (enterChunk s).outPos = s.outPos := rfl
@[simp] theorem enterChunk_outCap (s : State) : (enterChunk s).outCap = s.outCap := rfl
@[simp] theorem enterChunk_bfinal (s : State) : (enterChunk s).bfinal = s.bfinal := rfl
@[simp] theorem enterChunk_btype (s : State) : (enterChunk s).btype = s.btype := rfl
@[simp] theorem enterChunk_hlit (s : State) : (enterChunk s).hlit = s.hlit := rfl
@[simp] theorem enterChunk_hdist (s : State) : (enterChunk s).hdist = s.hdist := rfl
@[simp] theorem enterChunk_hclen (s : State) : (enterChunk s).hclen = s.hclen := rfl
@[simp] theorem enterChunk_clLens (s : State) : (enterChunk s).clLens = s.clLens := rfl
@[simp] theorem enterChunk_lens (s : State) : (enterChunk s).lens = s.lens := rfl
@[simp] theorem enterChunk_litTab (s : State) : (enterChunk s).litTab = s.litTab := rfl
@[simp] theorem enterChunk_distTab (s : State) : (enterChunk s).distTab = s.distTab := rfl
@[simp] theorem enterChunk_clTab (s : State) : (enterChunk s).clTab = s.clTab := rfl
@[simp] theorem enterChunk_clI (s : State) : (enterChunk s).clI = s.clI := rfl
@[simp] theorem enterChunk_lensN (s : State) : (enterChunk s).lensN = s.lensN := rfl
@[simp] theorem enterChunk_matchLen (s : State) : (enterChunk s).matchLen = s.matchLen := rfl
@[simp] theorem enterChunk_adlerA (s : State) : (enterChunk s).adlerA = s.adlerA := rfl
@[simp] theorem enterChunk_adlerB (s : State) : (enterChunk s).adlerB = s.adlerB := rfl
@[simp] theorem enterChunk_cur (s : State) : (enterChunk s).cur = s.cur := rfl
@[simp] theorem enterChunk_fileSize (s : State) : (enterChunk s).fileSize = s.fileSize := rfl
@[simp] theorem enterChunk_nframes (s : State) : (enterChunk s).nframes = s.nframes := rfl
@[simp] theorem enterChunk_width (s : State) : (enterChunk s).width = s.width := rfl
@[simp] theorem enterChunk_height (s : State) : (enterChunk s).height = s.height := rfl
@[simp] theorem enterChunk_depth (s : State) : (enterChunk s).depth = s.depth := rfl
@[simp] theorem enterChunk_bpp (s : State) : (enterChunk s).bpp = s.bpp := rfl
@[simp] theorem enterChunk_tkey (s : State) : (enterChunk s).tkey = s.tkey := rfl
@[simp] theorem enterChunk_frameIdx (s : State) : (enterChunk s).frameIdx = s.frameIdx := rfl
@[simp] theorem enterChunk_frameStart (s : State) : (enterChunk s).frameStart = s.frameStart := rfl
@[simp] theorem enterChunk_frameEnd (s : State) : (enterChunk s).frameEnd = s.frameEnd := rfl
@[simp] theorem enterChunk_chunksLeft (s : State) : (enterChunk s).chunksLeft = s.chunksLeft := rfl
@[simp] theorem enterChunk_chunkStart (s : State) : (enterChunk s).chunkStart = s.cur := rfl
@[simp] theorem enterChunk_chunkEnd (s : State) : (enterChunk s).chunkEnd = s.chunkEnd := rfl
@[simp] theorem enterChunk_ctype (s : State) : (enterChunk s).ctype = s.ctype := rfl
@[simp] theorem enterChunk_q (s : State) : (enterChunk s).q = s.q := rfl
@[simp] theorem enterChunk_palK (s : State) : (enterChunk s).palK = s.palK := rfl
@[simp] theorem enterChunk_palLast (s : State) : (enterChunk s).palLast = s.palLast := rfl
@[simp] theorem enterChunk_palNew (s : State) : (enterChunk s).palNew = s.palNew := rfl
@[simp] theorem enterChunk_palCount (s : State) : (enterChunk s).palCount = s.palCount := rfl
@[simp] theorem enterChunk_celX (s : State) : (enterChunk s).celX = s.celX := rfl
@[simp] theorem enterChunk_celY (s : State) : (enterChunk s).celY = s.celY := rfl
@[simp] theorem enterChunk_celW (s : State) : (enterChunk s).celW = s.celW := rfl
@[simp] theorem enterChunk_celH (s : State) : (enterChunk s).celH = s.celH := rfl
@[simp] theorem enterChunk_tagI (s : State) : (enterChunk s).tagI = s.tagI := rfl
@[simp] theorem enterChunk_tagN (s : State) : (enterChunk s).tagN = s.tagN := rfl
@[simp] theorem enterChunk_sliceLabel (s : State) : (enterChunk s).sliceLabel = s.sliceLabel := rfl
@[simp] theorem enterChunk_flipL (s : State) : (enterChunk s).flipL = s.flipL := rfl

@[simp] theorem afterFrames_cfg (s : State) : (afterFrames s).cfg = s.cfg := rfl
@[simp] theorem afterFrames_ctrl (s : State) : (afterFrames s).ctrl = s.ctrl := rfl
@[simp] theorem afterFrames_status (s : State) : (afterFrames s).status = s.status := rfl
@[simp] theorem afterFrames_errInfo (s : State) : (afterFrames s).errInfo = s.errInfo := rfl
@[simp] theorem afterFrames_errOffset (s : State) : (afterFrames s).errOffset = s.errOffset := rfl
@[simp] theorem afterFrames_inLen (s : State) : (afterFrames s).inLen = s.inLen := rfl
@[simp] theorem afterFrames_res (s : State) : (afterFrames s).res = s.res := rfl
@[simp] theorem afterFrames_host (s : State) : (afterFrames s).host = s.host := rfl
@[simp] theorem afterFrames_rx (s : State) : (afterFrames s).rx = s.rx := rfl
@[simp] theorem afterFrames_inp (s : State) : (afterFrames s).inp = s.inp := rfl
@[simp] theorem afterFrames_inEpoch (s : State) : (afterFrames s).inEpoch = s.inEpoch := rfl
@[simp] theorem afterFrames_tile (s : State) : (afterFrames s).tile = s.tile := rfl
@[simp] theorem afterFrames_tileEpoch (s : State) : (afterFrames s).tileEpoch = s.tileEpoch := rfl
@[simp] theorem afterFrames_atlas (s : State) : (afterFrames s).atlas = s.atlas := rfl
@[simp] theorem afterFrames_atlasLen (s : State) : (afterFrames s).atlasLen = s.atlasLen := rfl
@[simp] theorem afterFrames_pal (s : State) : (afterFrames s).pal = s.pal := rfl
@[simp] theorem afterFrames_dur (s : State) : (afterFrames s).dur = s.dur := rfl
@[simp] theorem afterFrames_tags (s : State) : (afterFrames s).tags = s.tags := rfl
@[simp] theorem afterFrames_slices (s : State) : (afterFrames s).slices = s.slices := rfl
@[simp] theorem afterFrames_seq (s : State) : (afterFrames s).seq = if s.flipL then .flip else .done := rfl
@[simp] theorem afterFrames_phase (s : State) : (afterFrames s).phase = .head := rfl
@[simp] theorem afterFrames_brStart (s : State) : (afterFrames s).brStart = s.brStart := rfl
@[simp] theorem afterFrames_brEnd (s : State) : (afterFrames s).brEnd = s.brEnd := rfl
@[simp] theorem afterFrames_brPos (s : State) : (afterFrames s).brPos = s.brPos := rfl
@[simp] theorem afterFrames_outPos (s : State) : (afterFrames s).outPos = s.outPos := rfl
@[simp] theorem afterFrames_outCap (s : State) : (afterFrames s).outCap = s.outCap := rfl
@[simp] theorem afterFrames_bfinal (s : State) : (afterFrames s).bfinal = s.bfinal := rfl
@[simp] theorem afterFrames_btype (s : State) : (afterFrames s).btype = s.btype := rfl
@[simp] theorem afterFrames_hlit (s : State) : (afterFrames s).hlit = s.hlit := rfl
@[simp] theorem afterFrames_hdist (s : State) : (afterFrames s).hdist = s.hdist := rfl
@[simp] theorem afterFrames_hclen (s : State) : (afterFrames s).hclen = s.hclen := rfl
@[simp] theorem afterFrames_clLens (s : State) : (afterFrames s).clLens = s.clLens := rfl
@[simp] theorem afterFrames_lens (s : State) : (afterFrames s).lens = s.lens := rfl
@[simp] theorem afterFrames_litTab (s : State) : (afterFrames s).litTab = s.litTab := rfl
@[simp] theorem afterFrames_distTab (s : State) : (afterFrames s).distTab = s.distTab := rfl
@[simp] theorem afterFrames_clTab (s : State) : (afterFrames s).clTab = s.clTab := rfl
@[simp] theorem afterFrames_clI (s : State) : (afterFrames s).clI = s.clI := rfl
@[simp] theorem afterFrames_lensN (s : State) : (afterFrames s).lensN = s.lensN := rfl
@[simp] theorem afterFrames_matchLen (s : State) : (afterFrames s).matchLen = s.matchLen := rfl
@[simp] theorem afterFrames_adlerA (s : State) : (afterFrames s).adlerA = s.adlerA := rfl
@[simp] theorem afterFrames_adlerB (s : State) : (afterFrames s).adlerB = s.adlerB := rfl
@[simp] theorem afterFrames_cur (s : State) : (afterFrames s).cur = s.cur := rfl
@[simp] theorem afterFrames_fileSize (s : State) : (afterFrames s).fileSize = s.fileSize := rfl
@[simp] theorem afterFrames_nframes (s : State) : (afterFrames s).nframes = s.nframes := rfl
@[simp] theorem afterFrames_width (s : State) : (afterFrames s).width = s.width := rfl
@[simp] theorem afterFrames_height (s : State) : (afterFrames s).height = s.height := rfl
@[simp] theorem afterFrames_depth (s : State) : (afterFrames s).depth = s.depth := rfl
@[simp] theorem afterFrames_bpp (s : State) : (afterFrames s).bpp = s.bpp := rfl
@[simp] theorem afterFrames_tkey (s : State) : (afterFrames s).tkey = s.tkey := rfl
@[simp] theorem afterFrames_frameIdx (s : State) : (afterFrames s).frameIdx = s.frameIdx := rfl
@[simp] theorem afterFrames_frameStart (s : State) : (afterFrames s).frameStart = s.frameStart := rfl
@[simp] theorem afterFrames_frameEnd (s : State) : (afterFrames s).frameEnd = s.frameEnd := rfl
@[simp] theorem afterFrames_chunksLeft (s : State) : (afterFrames s).chunksLeft = s.chunksLeft := rfl
@[simp] theorem afterFrames_chunkStart (s : State) : (afterFrames s).chunkStart = s.chunkStart := rfl
@[simp] theorem afterFrames_chunkEnd (s : State) : (afterFrames s).chunkEnd = s.chunkEnd := rfl
@[simp] theorem afterFrames_ctype (s : State) : (afterFrames s).ctype = s.ctype := rfl
@[simp] theorem afterFrames_q (s : State) : (afterFrames s).q = s.q := rfl
@[simp] theorem afterFrames_palK (s : State) : (afterFrames s).palK = s.palK := rfl
@[simp] theorem afterFrames_palLast (s : State) : (afterFrames s).palLast = s.palLast := rfl
@[simp] theorem afterFrames_palNew (s : State) : (afterFrames s).palNew = s.palNew := rfl
@[simp] theorem afterFrames_palCount (s : State) : (afterFrames s).palCount = s.palCount := rfl
@[simp] theorem afterFrames_celX (s : State) : (afterFrames s).celX = s.celX := rfl
@[simp] theorem afterFrames_celY (s : State) : (afterFrames s).celY = s.celY := rfl
@[simp] theorem afterFrames_celW (s : State) : (afterFrames s).celW = s.celW := rfl
@[simp] theorem afterFrames_celH (s : State) : (afterFrames s).celH = s.celH := rfl
@[simp] theorem afterFrames_tagI (s : State) : (afterFrames s).tagI = s.tagI := rfl
@[simp] theorem afterFrames_tagN (s : State) : (afterFrames s).tagN = s.tagN := rfl
@[simp] theorem afterFrames_sliceLabel (s : State) : (afterFrames s).sliceLabel = s.sliceLabel := rfl
@[simp] theorem afterFrames_flipL (s : State) : (afterFrames s).flipL = s.flipL := rfl

@[simp] theorem endChunk_cfg (s : State) : (endChunk s).cfg = s.cfg := rfl
@[simp] theorem endChunk_ctrl (s : State) : (endChunk s).ctrl = s.ctrl := rfl
@[simp] theorem endChunk_status (s : State) : (endChunk s).status = s.status := rfl
@[simp] theorem endChunk_errInfo (s : State) : (endChunk s).errInfo = s.errInfo := rfl
@[simp] theorem endChunk_errOffset (s : State) : (endChunk s).errOffset = s.errOffset := rfl
@[simp] theorem endChunk_inLen (s : State) : (endChunk s).inLen = s.inLen := rfl
@[simp] theorem endChunk_res (s : State) : (endChunk s).res = s.res := rfl
@[simp] theorem endChunk_host (s : State) : (endChunk s).host = s.host := rfl
@[simp] theorem endChunk_rx (s : State) : (endChunk s).rx = s.rx := rfl
@[simp] theorem endChunk_inp (s : State) : (endChunk s).inp = s.inp := rfl
@[simp] theorem endChunk_inEpoch (s : State) : (endChunk s).inEpoch = s.inEpoch := rfl
@[simp] theorem endChunk_tile (s : State) : (endChunk s).tile = s.tile := rfl
@[simp] theorem endChunk_tileEpoch (s : State) : (endChunk s).tileEpoch = s.tileEpoch := rfl
@[simp] theorem endChunk_atlas (s : State) : (endChunk s).atlas = s.atlas := rfl
@[simp] theorem endChunk_atlasLen (s : State) : (endChunk s).atlasLen = s.atlasLen := rfl
@[simp] theorem endChunk_pal (s : State) : (endChunk s).pal = s.pal := rfl
@[simp] theorem endChunk_dur (s : State) : (endChunk s).dur = s.dur := rfl
@[simp] theorem endChunk_tags (s : State) : (endChunk s).tags = s.tags := rfl
@[simp] theorem endChunk_slices (s : State) : (endChunk s).slices = s.slices := rfl
@[simp] theorem endChunk_seq (s : State) : (endChunk s).seq = .chunkHdr := rfl
@[simp] theorem endChunk_phase (s : State) : (endChunk s).phase = .head := rfl
@[simp] theorem endChunk_brStart (s : State) : (endChunk s).brStart = s.brStart := rfl
@[simp] theorem endChunk_brEnd (s : State) : (endChunk s).brEnd = s.brEnd := rfl
@[simp] theorem endChunk_brPos (s : State) : (endChunk s).brPos = s.brPos := rfl
@[simp] theorem endChunk_outPos (s : State) : (endChunk s).outPos = s.outPos := rfl
@[simp] theorem endChunk_outCap (s : State) : (endChunk s).outCap = s.outCap := rfl
@[simp] theorem endChunk_bfinal (s : State) : (endChunk s).bfinal = s.bfinal := rfl
@[simp] theorem endChunk_btype (s : State) : (endChunk s).btype = s.btype := rfl
@[simp] theorem endChunk_hlit (s : State) : (endChunk s).hlit = s.hlit := rfl
@[simp] theorem endChunk_hdist (s : State) : (endChunk s).hdist = s.hdist := rfl
@[simp] theorem endChunk_hclen (s : State) : (endChunk s).hclen = s.hclen := rfl
@[simp] theorem endChunk_clLens (s : State) : (endChunk s).clLens = s.clLens := rfl
@[simp] theorem endChunk_lens (s : State) : (endChunk s).lens = s.lens := rfl
@[simp] theorem endChunk_litTab (s : State) : (endChunk s).litTab = s.litTab := rfl
@[simp] theorem endChunk_distTab (s : State) : (endChunk s).distTab = s.distTab := rfl
@[simp] theorem endChunk_clTab (s : State) : (endChunk s).clTab = s.clTab := rfl
@[simp] theorem endChunk_clI (s : State) : (endChunk s).clI = s.clI := rfl
@[simp] theorem endChunk_lensN (s : State) : (endChunk s).lensN = s.lensN := rfl
@[simp] theorem endChunk_matchLen (s : State) : (endChunk s).matchLen = s.matchLen := rfl
@[simp] theorem endChunk_adlerA (s : State) : (endChunk s).adlerA = s.adlerA := rfl
@[simp] theorem endChunk_adlerB (s : State) : (endChunk s).adlerB = s.adlerB := rfl
@[simp] theorem endChunk_cur (s : State) : (endChunk s).cur = s.chunkEnd := rfl
@[simp] theorem endChunk_fileSize (s : State) : (endChunk s).fileSize = s.fileSize := rfl
@[simp] theorem endChunk_nframes (s : State) : (endChunk s).nframes = s.nframes := rfl
@[simp] theorem endChunk_width (s : State) : (endChunk s).width = s.width := rfl
@[simp] theorem endChunk_height (s : State) : (endChunk s).height = s.height := rfl
@[simp] theorem endChunk_depth (s : State) : (endChunk s).depth = s.depth := rfl
@[simp] theorem endChunk_bpp (s : State) : (endChunk s).bpp = s.bpp := rfl
@[simp] theorem endChunk_tkey (s : State) : (endChunk s).tkey = s.tkey := rfl
@[simp] theorem endChunk_frameIdx (s : State) : (endChunk s).frameIdx = s.frameIdx := rfl
@[simp] theorem endChunk_frameStart (s : State) : (endChunk s).frameStart = s.frameStart := rfl
@[simp] theorem endChunk_frameEnd (s : State) : (endChunk s).frameEnd = s.frameEnd := rfl
@[simp] theorem endChunk_chunksLeft (s : State) : (endChunk s).chunksLeft = s.chunksLeft - 1 := rfl
@[simp] theorem endChunk_chunkStart (s : State) : (endChunk s).chunkStart = s.chunkStart := rfl
@[simp] theorem endChunk_chunkEnd (s : State) : (endChunk s).chunkEnd = s.chunkEnd := rfl
@[simp] theorem endChunk_ctype (s : State) : (endChunk s).ctype = s.ctype := rfl
@[simp] theorem endChunk_q (s : State) : (endChunk s).q = s.q := rfl
@[simp] theorem endChunk_palK (s : State) : (endChunk s).palK = s.palK := rfl
@[simp] theorem endChunk_palLast (s : State) : (endChunk s).palLast = s.palLast := rfl
@[simp] theorem endChunk_palNew (s : State) : (endChunk s).palNew = s.palNew := rfl
@[simp] theorem endChunk_palCount (s : State) : (endChunk s).palCount = s.palCount := rfl
@[simp] theorem endChunk_celX (s : State) : (endChunk s).celX = s.celX := rfl
@[simp] theorem endChunk_celY (s : State) : (endChunk s).celY = s.celY := rfl
@[simp] theorem endChunk_celW (s : State) : (endChunk s).celW = s.celW := rfl
@[simp] theorem endChunk_celH (s : State) : (endChunk s).celH = s.celH := rfl
@[simp] theorem endChunk_tagI (s : State) : (endChunk s).tagI = s.tagI := rfl
@[simp] theorem endChunk_tagN (s : State) : (endChunk s).tagN = s.tagN := rfl
@[simp] theorem endChunk_sliceLabel (s : State) : (endChunk s).sliceLabel = s.sliceLabel := rfl
@[simp] theorem endChunk_flipL (s : State) : (endChunk s).flipL = s.flipL := rfl

@[simp] theorem initAtlas_cfg (s : State) : (initAtlas s).cfg = s.cfg := rfl
@[simp] theorem initAtlas_ctrl (s : State) : (initAtlas s).ctrl = s.ctrl := rfl
@[simp] theorem initAtlas_status (s : State) : (initAtlas s).status = s.status := rfl
@[simp] theorem initAtlas_errInfo (s : State) : (initAtlas s).errInfo = s.errInfo := rfl
@[simp] theorem initAtlas_errOffset (s : State) : (initAtlas s).errOffset = s.errOffset := rfl
@[simp] theorem initAtlas_inLen (s : State) : (initAtlas s).inLen = s.inLen := rfl
@[simp] theorem initAtlas_res (s : State) : (initAtlas s).res = s.res := rfl
@[simp] theorem initAtlas_host (s : State) : (initAtlas s).host = s.host := rfl
@[simp] theorem initAtlas_rx (s : State) : (initAtlas s).rx = s.rx := rfl
@[simp] theorem initAtlas_inp (s : State) : (initAtlas s).inp = s.inp := rfl
@[simp] theorem initAtlas_inEpoch (s : State) : (initAtlas s).inEpoch = s.inEpoch := rfl
@[simp] theorem initAtlas_tile (s : State) : (initAtlas s).tile = s.tile := rfl
@[simp] theorem initAtlas_tileEpoch (s : State) : (initAtlas s).tileEpoch = s.tileEpoch := rfl
@[simp] theorem initAtlas_atlas (s : State) : (initAtlas s).atlas = fillCells (atlasSize s) (if s.bpp = 1 then s.tkey else 0) := rfl
@[simp] theorem initAtlas_atlasLen (s : State) : (initAtlas s).atlasLen = atlasSize s := rfl
@[simp] theorem initAtlas_pal (s : State) : (initAtlas s).pal = s.pal := rfl
@[simp] theorem initAtlas_dur (s : State) : (initAtlas s).dur = s.dur := rfl
@[simp] theorem initAtlas_tags (s : State) : (initAtlas s).tags = s.tags := rfl
@[simp] theorem initAtlas_slices (s : State) : (initAtlas s).slices = s.slices := rfl
@[simp] theorem initAtlas_seq (s : State) : (initAtlas s).seq = s.seq := rfl
@[simp] theorem initAtlas_phase (s : State) : (initAtlas s).phase = s.phase := rfl
@[simp] theorem initAtlas_brStart (s : State) : (initAtlas s).brStart = s.brStart := rfl
@[simp] theorem initAtlas_brEnd (s : State) : (initAtlas s).brEnd = s.brEnd := rfl
@[simp] theorem initAtlas_brPos (s : State) : (initAtlas s).brPos = s.brPos := rfl
@[simp] theorem initAtlas_outPos (s : State) : (initAtlas s).outPos = s.outPos := rfl
@[simp] theorem initAtlas_outCap (s : State) : (initAtlas s).outCap = s.outCap := rfl
@[simp] theorem initAtlas_bfinal (s : State) : (initAtlas s).bfinal = s.bfinal := rfl
@[simp] theorem initAtlas_btype (s : State) : (initAtlas s).btype = s.btype := rfl
@[simp] theorem initAtlas_hlit (s : State) : (initAtlas s).hlit = s.hlit := rfl
@[simp] theorem initAtlas_hdist (s : State) : (initAtlas s).hdist = s.hdist := rfl
@[simp] theorem initAtlas_hclen (s : State) : (initAtlas s).hclen = s.hclen := rfl
@[simp] theorem initAtlas_clLens (s : State) : (initAtlas s).clLens = s.clLens := rfl
@[simp] theorem initAtlas_lens (s : State) : (initAtlas s).lens = s.lens := rfl
@[simp] theorem initAtlas_litTab (s : State) : (initAtlas s).litTab = s.litTab := rfl
@[simp] theorem initAtlas_distTab (s : State) : (initAtlas s).distTab = s.distTab := rfl
@[simp] theorem initAtlas_clTab (s : State) : (initAtlas s).clTab = s.clTab := rfl
@[simp] theorem initAtlas_clI (s : State) : (initAtlas s).clI = s.clI := rfl
@[simp] theorem initAtlas_lensN (s : State) : (initAtlas s).lensN = s.lensN := rfl
@[simp] theorem initAtlas_matchLen (s : State) : (initAtlas s).matchLen = s.matchLen := rfl
@[simp] theorem initAtlas_adlerA (s : State) : (initAtlas s).adlerA = s.adlerA := rfl
@[simp] theorem initAtlas_adlerB (s : State) : (initAtlas s).adlerB = s.adlerB := rfl
@[simp] theorem initAtlas_cur (s : State) : (initAtlas s).cur = s.cur := rfl
@[simp] theorem initAtlas_fileSize (s : State) : (initAtlas s).fileSize = s.fileSize := rfl
@[simp] theorem initAtlas_nframes (s : State) : (initAtlas s).nframes = s.nframes := rfl
@[simp] theorem initAtlas_width (s : State) : (initAtlas s).width = s.width := rfl
@[simp] theorem initAtlas_height (s : State) : (initAtlas s).height = s.height := rfl
@[simp] theorem initAtlas_depth (s : State) : (initAtlas s).depth = s.depth := rfl
@[simp] theorem initAtlas_bpp (s : State) : (initAtlas s).bpp = s.bpp := rfl
@[simp] theorem initAtlas_tkey (s : State) : (initAtlas s).tkey = s.tkey := rfl
@[simp] theorem initAtlas_frameIdx (s : State) : (initAtlas s).frameIdx = s.frameIdx := rfl
@[simp] theorem initAtlas_frameStart (s : State) : (initAtlas s).frameStart = s.frameStart := rfl
@[simp] theorem initAtlas_frameEnd (s : State) : (initAtlas s).frameEnd = s.frameEnd := rfl
@[simp] theorem initAtlas_chunksLeft (s : State) : (initAtlas s).chunksLeft = s.chunksLeft := rfl
@[simp] theorem initAtlas_chunkStart (s : State) : (initAtlas s).chunkStart = s.chunkStart := rfl
@[simp] theorem initAtlas_chunkEnd (s : State) : (initAtlas s).chunkEnd = s.chunkEnd := rfl
@[simp] theorem initAtlas_ctype (s : State) : (initAtlas s).ctype = s.ctype := rfl
@[simp] theorem initAtlas_q (s : State) : (initAtlas s).q = s.q := rfl
@[simp] theorem initAtlas_palK (s : State) : (initAtlas s).palK = s.palK := rfl
@[simp] theorem initAtlas_palLast (s : State) : (initAtlas s).palLast = s.palLast := rfl
@[simp] theorem initAtlas_palNew (s : State) : (initAtlas s).palNew = s.palNew := rfl
@[simp] theorem initAtlas_palCount (s : State) : (initAtlas s).palCount = s.palCount := rfl
@[simp] theorem initAtlas_celX (s : State) : (initAtlas s).celX = s.celX := rfl
@[simp] theorem initAtlas_celY (s : State) : (initAtlas s).celY = s.celY := rfl
@[simp] theorem initAtlas_celW (s : State) : (initAtlas s).celW = s.celW := rfl
@[simp] theorem initAtlas_celH (s : State) : (initAtlas s).celH = s.celH := rfl
@[simp] theorem initAtlas_tagI (s : State) : (initAtlas s).tagI = s.tagI := rfl
@[simp] theorem initAtlas_tagN (s : State) : (initAtlas s).tagN = s.tagN := rfl
@[simp] theorem initAtlas_sliceLabel (s : State) : (initAtlas s).sliceLabel = s.sliceLabel := rfl
@[simp] theorem initAtlas_flipL (s : State) : (initAtlas s).flipL = s.flipL := rfl

@[simp] theorem blit_cfg (s : State) : (blit s).cfg = s.cfg := rfl
@[simp] theorem blit_ctrl (s : State) : (blit s).ctrl = s.ctrl := rfl
@[simp] theorem blit_status (s : State) : (blit s).status = s.status := rfl
@[simp] theorem blit_errInfo (s : State) : (blit s).errInfo = s.errInfo := rfl
@[simp] theorem blit_errOffset (s : State) : (blit s).errOffset = s.errOffset := rfl
@[simp] theorem blit_inLen (s : State) : (blit s).inLen = s.inLen := rfl
@[simp] theorem blit_res (s : State) : (blit s).res = s.res := rfl
@[simp] theorem blit_host (s : State) : (blit s).host = s.host := rfl
@[simp] theorem blit_rx (s : State) : (blit s).rx = s.rx := rfl
@[simp] theorem blit_inp (s : State) : (blit s).inp = s.inp := rfl
@[simp] theorem blit_inEpoch (s : State) : (blit s).inEpoch = s.inEpoch := rfl
@[simp] theorem blit_tile (s : State) : (blit s).tile = s.tile := rfl
@[simp] theorem blit_tileEpoch (s : State) : (blit s).tileEpoch = s.tileEpoch := rfl
@[simp] theorem blit_atlas (s : State) : (blit s).atlas = blitRows s s.celH := rfl
@[simp] theorem blit_atlasLen (s : State) : (blit s).atlasLen = s.atlasLen := rfl
@[simp] theorem blit_pal (s : State) : (blit s).pal = s.pal := rfl
@[simp] theorem blit_dur (s : State) : (blit s).dur = s.dur := rfl
@[simp] theorem blit_tags (s : State) : (blit s).tags = s.tags := rfl
@[simp] theorem blit_slices (s : State) : (blit s).slices = s.slices := rfl
@[simp] theorem blit_seq (s : State) : (blit s).seq = s.seq := rfl
@[simp] theorem blit_phase (s : State) : (blit s).phase = s.phase := rfl
@[simp] theorem blit_brStart (s : State) : (blit s).brStart = s.brStart := rfl
@[simp] theorem blit_brEnd (s : State) : (blit s).brEnd = s.brEnd := rfl
@[simp] theorem blit_brPos (s : State) : (blit s).brPos = s.brPos := rfl
@[simp] theorem blit_outPos (s : State) : (blit s).outPos = s.outPos := rfl
@[simp] theorem blit_outCap (s : State) : (blit s).outCap = s.outCap := rfl
@[simp] theorem blit_bfinal (s : State) : (blit s).bfinal = s.bfinal := rfl
@[simp] theorem blit_btype (s : State) : (blit s).btype = s.btype := rfl
@[simp] theorem blit_hlit (s : State) : (blit s).hlit = s.hlit := rfl
@[simp] theorem blit_hdist (s : State) : (blit s).hdist = s.hdist := rfl
@[simp] theorem blit_hclen (s : State) : (blit s).hclen = s.hclen := rfl
@[simp] theorem blit_clLens (s : State) : (blit s).clLens = s.clLens := rfl
@[simp] theorem blit_lens (s : State) : (blit s).lens = s.lens := rfl
@[simp] theorem blit_litTab (s : State) : (blit s).litTab = s.litTab := rfl
@[simp] theorem blit_distTab (s : State) : (blit s).distTab = s.distTab := rfl
@[simp] theorem blit_clTab (s : State) : (blit s).clTab = s.clTab := rfl
@[simp] theorem blit_clI (s : State) : (blit s).clI = s.clI := rfl
@[simp] theorem blit_lensN (s : State) : (blit s).lensN = s.lensN := rfl
@[simp] theorem blit_matchLen (s : State) : (blit s).matchLen = s.matchLen := rfl
@[simp] theorem blit_adlerA (s : State) : (blit s).adlerA = s.adlerA := rfl
@[simp] theorem blit_adlerB (s : State) : (blit s).adlerB = s.adlerB := rfl
@[simp] theorem blit_cur (s : State) : (blit s).cur = s.cur := rfl
@[simp] theorem blit_fileSize (s : State) : (blit s).fileSize = s.fileSize := rfl
@[simp] theorem blit_nframes (s : State) : (blit s).nframes = s.nframes := rfl
@[simp] theorem blit_width (s : State) : (blit s).width = s.width := rfl
@[simp] theorem blit_height (s : State) : (blit s).height = s.height := rfl
@[simp] theorem blit_depth (s : State) : (blit s).depth = s.depth := rfl
@[simp] theorem blit_bpp (s : State) : (blit s).bpp = s.bpp := rfl
@[simp] theorem blit_tkey (s : State) : (blit s).tkey = s.tkey := rfl
@[simp] theorem blit_frameIdx (s : State) : (blit s).frameIdx = s.frameIdx := rfl
@[simp] theorem blit_frameStart (s : State) : (blit s).frameStart = s.frameStart := rfl
@[simp] theorem blit_frameEnd (s : State) : (blit s).frameEnd = s.frameEnd := rfl
@[simp] theorem blit_chunksLeft (s : State) : (blit s).chunksLeft = s.chunksLeft := rfl
@[simp] theorem blit_chunkStart (s : State) : (blit s).chunkStart = s.chunkStart := rfl
@[simp] theorem blit_chunkEnd (s : State) : (blit s).chunkEnd = s.chunkEnd := rfl
@[simp] theorem blit_ctype (s : State) : (blit s).ctype = s.ctype := rfl
@[simp] theorem blit_q (s : State) : (blit s).q = s.q := rfl
@[simp] theorem blit_palK (s : State) : (blit s).palK = s.palK := rfl
@[simp] theorem blit_palLast (s : State) : (blit s).palLast = s.palLast := rfl
@[simp] theorem blit_palNew (s : State) : (blit s).palNew = s.palNew := rfl
@[simp] theorem blit_palCount (s : State) : (blit s).palCount = s.palCount := rfl
@[simp] theorem blit_celX (s : State) : (blit s).celX = s.celX := rfl
@[simp] theorem blit_celY (s : State) : (blit s).celY = s.celY := rfl
@[simp] theorem blit_celW (s : State) : (blit s).celW = s.celW := rfl
@[simp] theorem blit_celH (s : State) : (blit s).celH = s.celH := rfl
@[simp] theorem blit_tagI (s : State) : (blit s).tagI = s.tagI := rfl
@[simp] theorem blit_tagN (s : State) : (blit s).tagN = s.tagN := rfl
@[simp] theorem blit_sliceLabel (s : State) : (blit s).sliceLabel = s.sliceLabel := rfl
@[simp] theorem blit_flipL (s : State) : (blit s).flipL = s.flipL := rfl

@[simp] theorem flipAtlas_cfg (s : State) : (flipAtlas s).cfg = s.cfg := rfl
@[simp] theorem flipAtlas_ctrl (s : State) : (flipAtlas s).ctrl = s.ctrl := rfl
@[simp] theorem flipAtlas_status (s : State) : (flipAtlas s).status = s.status := rfl
@[simp] theorem flipAtlas_errInfo (s : State) : (flipAtlas s).errInfo = s.errInfo := rfl
@[simp] theorem flipAtlas_errOffset (s : State) : (flipAtlas s).errOffset = s.errOffset := rfl
@[simp] theorem flipAtlas_inLen (s : State) : (flipAtlas s).inLen = s.inLen := rfl
@[simp] theorem flipAtlas_res (s : State) : (flipAtlas s).res = s.res := rfl
@[simp] theorem flipAtlas_host (s : State) : (flipAtlas s).host = s.host := rfl
@[simp] theorem flipAtlas_rx (s : State) : (flipAtlas s).rx = s.rx := rfl
@[simp] theorem flipAtlas_inp (s : State) : (flipAtlas s).inp = s.inp := rfl
@[simp] theorem flipAtlas_inEpoch (s : State) : (flipAtlas s).inEpoch = s.inEpoch := rfl
@[simp] theorem flipAtlas_tile (s : State) : (flipAtlas s).tile = s.tile := rfl
@[simp] theorem flipAtlas_tileEpoch (s : State) : (flipAtlas s).tileEpoch = s.tileEpoch := rfl
@[simp] theorem flipAtlas_atlas (s : State) : (flipAtlas s).atlas = flipRows (stride s) s.height (s.height / 2) s.atlas := rfl
@[simp] theorem flipAtlas_atlasLen (s : State) : (flipAtlas s).atlasLen = s.atlasLen := rfl
@[simp] theorem flipAtlas_pal (s : State) : (flipAtlas s).pal = s.pal := rfl
@[simp] theorem flipAtlas_dur (s : State) : (flipAtlas s).dur = s.dur := rfl
@[simp] theorem flipAtlas_tags (s : State) : (flipAtlas s).tags = s.tags := rfl
@[simp] theorem flipAtlas_slices (s : State) : (flipAtlas s).slices = s.slices := rfl
@[simp] theorem flipAtlas_seq (s : State) : (flipAtlas s).seq = s.seq := rfl
@[simp] theorem flipAtlas_phase (s : State) : (flipAtlas s).phase = s.phase := rfl
@[simp] theorem flipAtlas_brStart (s : State) : (flipAtlas s).brStart = s.brStart := rfl
@[simp] theorem flipAtlas_brEnd (s : State) : (flipAtlas s).brEnd = s.brEnd := rfl
@[simp] theorem flipAtlas_brPos (s : State) : (flipAtlas s).brPos = s.brPos := rfl
@[simp] theorem flipAtlas_outPos (s : State) : (flipAtlas s).outPos = s.outPos := rfl
@[simp] theorem flipAtlas_outCap (s : State) : (flipAtlas s).outCap = s.outCap := rfl
@[simp] theorem flipAtlas_bfinal (s : State) : (flipAtlas s).bfinal = s.bfinal := rfl
@[simp] theorem flipAtlas_btype (s : State) : (flipAtlas s).btype = s.btype := rfl
@[simp] theorem flipAtlas_hlit (s : State) : (flipAtlas s).hlit = s.hlit := rfl
@[simp] theorem flipAtlas_hdist (s : State) : (flipAtlas s).hdist = s.hdist := rfl
@[simp] theorem flipAtlas_hclen (s : State) : (flipAtlas s).hclen = s.hclen := rfl
@[simp] theorem flipAtlas_clLens (s : State) : (flipAtlas s).clLens = s.clLens := rfl
@[simp] theorem flipAtlas_lens (s : State) : (flipAtlas s).lens = s.lens := rfl
@[simp] theorem flipAtlas_litTab (s : State) : (flipAtlas s).litTab = s.litTab := rfl
@[simp] theorem flipAtlas_distTab (s : State) : (flipAtlas s).distTab = s.distTab := rfl
@[simp] theorem flipAtlas_clTab (s : State) : (flipAtlas s).clTab = s.clTab := rfl
@[simp] theorem flipAtlas_clI (s : State) : (flipAtlas s).clI = s.clI := rfl
@[simp] theorem flipAtlas_lensN (s : State) : (flipAtlas s).lensN = s.lensN := rfl
@[simp] theorem flipAtlas_matchLen (s : State) : (flipAtlas s).matchLen = s.matchLen := rfl
@[simp] theorem flipAtlas_adlerA (s : State) : (flipAtlas s).adlerA = s.adlerA := rfl
@[simp] theorem flipAtlas_adlerB (s : State) : (flipAtlas s).adlerB = s.adlerB := rfl
@[simp] theorem flipAtlas_cur (s : State) : (flipAtlas s).cur = s.cur := rfl
@[simp] theorem flipAtlas_fileSize (s : State) : (flipAtlas s).fileSize = s.fileSize := rfl
@[simp] theorem flipAtlas_nframes (s : State) : (flipAtlas s).nframes = s.nframes := rfl
@[simp] theorem flipAtlas_width (s : State) : (flipAtlas s).width = s.width := rfl
@[simp] theorem flipAtlas_height (s : State) : (flipAtlas s).height = s.height := rfl
@[simp] theorem flipAtlas_depth (s : State) : (flipAtlas s).depth = s.depth := rfl
@[simp] theorem flipAtlas_bpp (s : State) : (flipAtlas s).bpp = s.bpp := rfl
@[simp] theorem flipAtlas_tkey (s : State) : (flipAtlas s).tkey = s.tkey := rfl
@[simp] theorem flipAtlas_frameIdx (s : State) : (flipAtlas s).frameIdx = s.frameIdx := rfl
@[simp] theorem flipAtlas_frameStart (s : State) : (flipAtlas s).frameStart = s.frameStart := rfl
@[simp] theorem flipAtlas_frameEnd (s : State) : (flipAtlas s).frameEnd = s.frameEnd := rfl
@[simp] theorem flipAtlas_chunksLeft (s : State) : (flipAtlas s).chunksLeft = s.chunksLeft := rfl
@[simp] theorem flipAtlas_chunkStart (s : State) : (flipAtlas s).chunkStart = s.chunkStart := rfl
@[simp] theorem flipAtlas_chunkEnd (s : State) : (flipAtlas s).chunkEnd = s.chunkEnd := rfl
@[simp] theorem flipAtlas_ctype (s : State) : (flipAtlas s).ctype = s.ctype := rfl
@[simp] theorem flipAtlas_q (s : State) : (flipAtlas s).q = s.q := rfl
@[simp] theorem flipAtlas_palK (s : State) : (flipAtlas s).palK = s.palK := rfl
@[simp] theorem flipAtlas_palLast (s : State) : (flipAtlas s).palLast = s.palLast := rfl
@[simp] theorem flipAtlas_palNew (s : State) : (flipAtlas s).palNew = s.palNew := rfl
@[simp] theorem flipAtlas_palCount (s : State) : (flipAtlas s).palCount = s.palCount := rfl
@[simp] theorem flipAtlas_celX (s : State) : (flipAtlas s).celX = s.celX := rfl
@[simp] theorem flipAtlas_celY (s : State) : (flipAtlas s).celY = s.celY := rfl
@[simp] theorem flipAtlas_celW (s : State) : (flipAtlas s).celW = s.celW := rfl
@[simp] theorem flipAtlas_celH (s : State) : (flipAtlas s).celH = s.celH := rfl
@[simp] theorem flipAtlas_tagI (s : State) : (flipAtlas s).tagI = s.tagI := rfl
@[simp] theorem flipAtlas_tagN (s : State) : (flipAtlas s).tagN = s.tagN := rfl
@[simp] theorem flipAtlas_sliceLabel (s : State) : (flipAtlas s).sliceLabel = s.sliceLabel := rfl
@[simp] theorem flipAtlas_flipL (s : State) : (flipAtlas s).flipL = s.flipL := rfl

@[simp] theorem writeFlip_cfg (flip : Bool) (s : State) : (writeFlip flip s).cfg = s.cfg := rfl
@[simp] theorem writeFlip_ctrl (flip : Bool) (s : State) : (writeFlip flip s).ctrl = ctrlWord flip := rfl
@[simp] theorem writeFlip_status (flip : Bool) (s : State) : (writeFlip flip s).status = s.status := rfl
@[simp] theorem writeFlip_errInfo (flip : Bool) (s : State) : (writeFlip flip s).errInfo = s.errInfo := rfl
@[simp] theorem writeFlip_errOffset (flip : Bool) (s : State) : (writeFlip flip s).errOffset = s.errOffset := rfl
@[simp] theorem writeFlip_inLen (flip : Bool) (s : State) : (writeFlip flip s).inLen = s.inLen := rfl
@[simp] theorem writeFlip_res (flip : Bool) (s : State) : (writeFlip flip s).res = s.res := rfl
@[simp] theorem writeFlip_host (flip : Bool) (s : State) : (writeFlip flip s).host = s.host := rfl
@[simp] theorem writeFlip_rx (flip : Bool) (s : State) : (writeFlip flip s).rx = s.rx := rfl
@[simp] theorem writeFlip_inp (flip : Bool) (s : State) : (writeFlip flip s).inp = s.inp := rfl
@[simp] theorem writeFlip_inEpoch (flip : Bool) (s : State) : (writeFlip flip s).inEpoch = s.inEpoch := rfl
@[simp] theorem writeFlip_tile (flip : Bool) (s : State) : (writeFlip flip s).tile = s.tile := rfl
@[simp] theorem writeFlip_tileEpoch (flip : Bool) (s : State) : (writeFlip flip s).tileEpoch = s.tileEpoch := rfl
@[simp] theorem writeFlip_atlas (flip : Bool) (s : State) : (writeFlip flip s).atlas = s.atlas := rfl
@[simp] theorem writeFlip_atlasLen (flip : Bool) (s : State) : (writeFlip flip s).atlasLen = s.atlasLen := rfl
@[simp] theorem writeFlip_pal (flip : Bool) (s : State) : (writeFlip flip s).pal = s.pal := rfl
@[simp] theorem writeFlip_dur (flip : Bool) (s : State) : (writeFlip flip s).dur = s.dur := rfl
@[simp] theorem writeFlip_tags (flip : Bool) (s : State) : (writeFlip flip s).tags = s.tags := rfl
@[simp] theorem writeFlip_slices (flip : Bool) (s : State) : (writeFlip flip s).slices = s.slices := rfl
@[simp] theorem writeFlip_seq (flip : Bool) (s : State) : (writeFlip flip s).seq = s.seq := rfl
@[simp] theorem writeFlip_phase (flip : Bool) (s : State) : (writeFlip flip s).phase = s.phase := rfl
@[simp] theorem writeFlip_brStart (flip : Bool) (s : State) : (writeFlip flip s).brStart = s.brStart := rfl
@[simp] theorem writeFlip_brEnd (flip : Bool) (s : State) : (writeFlip flip s).brEnd = s.brEnd := rfl
@[simp] theorem writeFlip_brPos (flip : Bool) (s : State) : (writeFlip flip s).brPos = s.brPos := rfl
@[simp] theorem writeFlip_outPos (flip : Bool) (s : State) : (writeFlip flip s).outPos = s.outPos := rfl
@[simp] theorem writeFlip_outCap (flip : Bool) (s : State) : (writeFlip flip s).outCap = s.outCap := rfl
@[simp] theorem writeFlip_bfinal (flip : Bool) (s : State) : (writeFlip flip s).bfinal = s.bfinal := rfl
@[simp] theorem writeFlip_btype (flip : Bool) (s : State) : (writeFlip flip s).btype = s.btype := rfl
@[simp] theorem writeFlip_hlit (flip : Bool) (s : State) : (writeFlip flip s).hlit = s.hlit := rfl
@[simp] theorem writeFlip_hdist (flip : Bool) (s : State) : (writeFlip flip s).hdist = s.hdist := rfl
@[simp] theorem writeFlip_hclen (flip : Bool) (s : State) : (writeFlip flip s).hclen = s.hclen := rfl
@[simp] theorem writeFlip_clLens (flip : Bool) (s : State) : (writeFlip flip s).clLens = s.clLens := rfl
@[simp] theorem writeFlip_lens (flip : Bool) (s : State) : (writeFlip flip s).lens = s.lens := rfl
@[simp] theorem writeFlip_litTab (flip : Bool) (s : State) : (writeFlip flip s).litTab = s.litTab := rfl
@[simp] theorem writeFlip_distTab (flip : Bool) (s : State) : (writeFlip flip s).distTab = s.distTab := rfl
@[simp] theorem writeFlip_clTab (flip : Bool) (s : State) : (writeFlip flip s).clTab = s.clTab := rfl
@[simp] theorem writeFlip_clI (flip : Bool) (s : State) : (writeFlip flip s).clI = s.clI := rfl
@[simp] theorem writeFlip_lensN (flip : Bool) (s : State) : (writeFlip flip s).lensN = s.lensN := rfl
@[simp] theorem writeFlip_matchLen (flip : Bool) (s : State) : (writeFlip flip s).matchLen = s.matchLen := rfl
@[simp] theorem writeFlip_adlerA (flip : Bool) (s : State) : (writeFlip flip s).adlerA = s.adlerA := rfl
@[simp] theorem writeFlip_adlerB (flip : Bool) (s : State) : (writeFlip flip s).adlerB = s.adlerB := rfl
@[simp] theorem writeFlip_cur (flip : Bool) (s : State) : (writeFlip flip s).cur = s.cur := rfl
@[simp] theorem writeFlip_fileSize (flip : Bool) (s : State) : (writeFlip flip s).fileSize = s.fileSize := rfl
@[simp] theorem writeFlip_nframes (flip : Bool) (s : State) : (writeFlip flip s).nframes = s.nframes := rfl
@[simp] theorem writeFlip_width (flip : Bool) (s : State) : (writeFlip flip s).width = s.width := rfl
@[simp] theorem writeFlip_height (flip : Bool) (s : State) : (writeFlip flip s).height = s.height := rfl
@[simp] theorem writeFlip_depth (flip : Bool) (s : State) : (writeFlip flip s).depth = s.depth := rfl
@[simp] theorem writeFlip_bpp (flip : Bool) (s : State) : (writeFlip flip s).bpp = s.bpp := rfl
@[simp] theorem writeFlip_tkey (flip : Bool) (s : State) : (writeFlip flip s).tkey = s.tkey := rfl
@[simp] theorem writeFlip_frameIdx (flip : Bool) (s : State) : (writeFlip flip s).frameIdx = s.frameIdx := rfl
@[simp] theorem writeFlip_frameStart (flip : Bool) (s : State) : (writeFlip flip s).frameStart = s.frameStart := rfl
@[simp] theorem writeFlip_frameEnd (flip : Bool) (s : State) : (writeFlip flip s).frameEnd = s.frameEnd := rfl
@[simp] theorem writeFlip_chunksLeft (flip : Bool) (s : State) : (writeFlip flip s).chunksLeft = s.chunksLeft := rfl
@[simp] theorem writeFlip_chunkStart (flip : Bool) (s : State) : (writeFlip flip s).chunkStart = s.chunkStart := rfl
@[simp] theorem writeFlip_chunkEnd (flip : Bool) (s : State) : (writeFlip flip s).chunkEnd = s.chunkEnd := rfl
@[simp] theorem writeFlip_ctype (flip : Bool) (s : State) : (writeFlip flip s).ctype = s.ctype := rfl
@[simp] theorem writeFlip_q (flip : Bool) (s : State) : (writeFlip flip s).q = s.q := rfl
@[simp] theorem writeFlip_palK (flip : Bool) (s : State) : (writeFlip flip s).palK = s.palK := rfl
@[simp] theorem writeFlip_palLast (flip : Bool) (s : State) : (writeFlip flip s).palLast = s.palLast := rfl
@[simp] theorem writeFlip_palNew (flip : Bool) (s : State) : (writeFlip flip s).palNew = s.palNew := rfl
@[simp] theorem writeFlip_palCount (flip : Bool) (s : State) : (writeFlip flip s).palCount = s.palCount := rfl
@[simp] theorem writeFlip_celX (flip : Bool) (s : State) : (writeFlip flip s).celX = s.celX := rfl
@[simp] theorem writeFlip_celY (flip : Bool) (s : State) : (writeFlip flip s).celY = s.celY := rfl
@[simp] theorem writeFlip_celW (flip : Bool) (s : State) : (writeFlip flip s).celW = s.celW := rfl
@[simp] theorem writeFlip_celH (flip : Bool) (s : State) : (writeFlip flip s).celH = s.celH := rfl
@[simp] theorem writeFlip_tagI (flip : Bool) (s : State) : (writeFlip flip s).tagI = s.tagI := rfl
@[simp] theorem writeFlip_tagN (flip : Bool) (s : State) : (writeFlip flip s).tagN = s.tagN := rfl
@[simp] theorem writeFlip_sliceLabel (flip : Bool) (s : State) : (writeFlip flip s).sliceLabel = s.sliceLabel := rfl
@[simp] theorem writeFlip_flipL (flip : Bool) (s : State) : (writeFlip flip s).flipL = s.flipL := rfl

@[simp] theorem headerFields_cfg (size : Word) (nframes width height depth : Half) (tkey : Byte) (s : State) : (headerFields size nframes width height depth tkey s).cfg = s.cfg := rfl
@[simp] theorem headerFields_ctrl (size : Word) (nframes width height depth : Half) (tkey : Byte) (s : State) : (headerFields size nframes width height depth tkey s).ctrl = s.ctrl := rfl
@[simp] theorem headerFields_status (size : Word) (nframes width height depth : Half) (tkey : Byte) (s : State) : (headerFields size nframes width height depth tkey s).status = s.status := rfl
@[simp] theorem headerFields_errInfo (size : Word) (nframes width height depth : Half) (tkey : Byte) (s : State) : (headerFields size nframes width height depth tkey s).errInfo = s.errInfo := rfl
@[simp] theorem headerFields_errOffset (size : Word) (nframes width height depth : Half) (tkey : Byte) (s : State) : (headerFields size nframes width height depth tkey s).errOffset = s.errOffset := rfl
@[simp] theorem headerFields_inLen (size : Word) (nframes width height depth : Half) (tkey : Byte) (s : State) : (headerFields size nframes width height depth tkey s).inLen = s.inLen := rfl
@[simp] theorem headerFields_res (size : Word) (nframes width height depth : Half) (tkey : Byte) (s : State) : (headerFields size nframes width height depth tkey s).res = s.res := rfl
@[simp] theorem headerFields_host (size : Word) (nframes width height depth : Half) (tkey : Byte) (s : State) : (headerFields size nframes width height depth tkey s).host = s.host := rfl
@[simp] theorem headerFields_rx (size : Word) (nframes width height depth : Half) (tkey : Byte) (s : State) : (headerFields size nframes width height depth tkey s).rx = s.rx := rfl
@[simp] theorem headerFields_inp (size : Word) (nframes width height depth : Half) (tkey : Byte) (s : State) : (headerFields size nframes width height depth tkey s).inp = s.inp := rfl
@[simp] theorem headerFields_inEpoch (size : Word) (nframes width height depth : Half) (tkey : Byte) (s : State) : (headerFields size nframes width height depth tkey s).inEpoch = s.inEpoch := rfl
@[simp] theorem headerFields_tile (size : Word) (nframes width height depth : Half) (tkey : Byte) (s : State) : (headerFields size nframes width height depth tkey s).tile = s.tile := rfl
@[simp] theorem headerFields_tileEpoch (size : Word) (nframes width height depth : Half) (tkey : Byte) (s : State) : (headerFields size nframes width height depth tkey s).tileEpoch = s.tileEpoch := rfl
@[simp] theorem headerFields_atlas (size : Word) (nframes width height depth : Half) (tkey : Byte) (s : State) : (headerFields size nframes width height depth tkey s).atlas = s.atlas := rfl
@[simp] theorem headerFields_atlasLen (size : Word) (nframes width height depth : Half) (tkey : Byte) (s : State) : (headerFields size nframes width height depth tkey s).atlasLen = s.atlasLen := rfl
@[simp] theorem headerFields_pal (size : Word) (nframes width height depth : Half) (tkey : Byte) (s : State) : (headerFields size nframes width height depth tkey s).pal = s.pal := rfl
@[simp] theorem headerFields_dur (size : Word) (nframes width height depth : Half) (tkey : Byte) (s : State) : (headerFields size nframes width height depth tkey s).dur = s.dur := rfl
@[simp] theorem headerFields_tags (size : Word) (nframes width height depth : Half) (tkey : Byte) (s : State) : (headerFields size nframes width height depth tkey s).tags = s.tags := rfl
@[simp] theorem headerFields_slices (size : Word) (nframes width height depth : Half) (tkey : Byte) (s : State) : (headerFields size nframes width height depth tkey s).slices = s.slices := rfl
@[simp] theorem headerFields_seq (size : Word) (nframes width height depth : Half) (tkey : Byte) (s : State) : (headerFields size nframes width height depth tkey s).seq = s.seq := rfl
@[simp] theorem headerFields_phase (size : Word) (nframes width height depth : Half) (tkey : Byte) (s : State) : (headerFields size nframes width height depth tkey s).phase = s.phase := rfl
@[simp] theorem headerFields_brStart (size : Word) (nframes width height depth : Half) (tkey : Byte) (s : State) : (headerFields size nframes width height depth tkey s).brStart = s.brStart := rfl
@[simp] theorem headerFields_brEnd (size : Word) (nframes width height depth : Half) (tkey : Byte) (s : State) : (headerFields size nframes width height depth tkey s).brEnd = s.brEnd := rfl
@[simp] theorem headerFields_brPos (size : Word) (nframes width height depth : Half) (tkey : Byte) (s : State) : (headerFields size nframes width height depth tkey s).brPos = s.brPos := rfl
@[simp] theorem headerFields_outPos (size : Word) (nframes width height depth : Half) (tkey : Byte) (s : State) : (headerFields size nframes width height depth tkey s).outPos = s.outPos := rfl
@[simp] theorem headerFields_outCap (size : Word) (nframes width height depth : Half) (tkey : Byte) (s : State) : (headerFields size nframes width height depth tkey s).outCap = s.outCap := rfl
@[simp] theorem headerFields_bfinal (size : Word) (nframes width height depth : Half) (tkey : Byte) (s : State) : (headerFields size nframes width height depth tkey s).bfinal = s.bfinal := rfl
@[simp] theorem headerFields_btype (size : Word) (nframes width height depth : Half) (tkey : Byte) (s : State) : (headerFields size nframes width height depth tkey s).btype = s.btype := rfl
@[simp] theorem headerFields_hlit (size : Word) (nframes width height depth : Half) (tkey : Byte) (s : State) : (headerFields size nframes width height depth tkey s).hlit = s.hlit := rfl
@[simp] theorem headerFields_hdist (size : Word) (nframes width height depth : Half) (tkey : Byte) (s : State) : (headerFields size nframes width height depth tkey s).hdist = s.hdist := rfl
@[simp] theorem headerFields_hclen (size : Word) (nframes width height depth : Half) (tkey : Byte) (s : State) : (headerFields size nframes width height depth tkey s).hclen = s.hclen := rfl
@[simp] theorem headerFields_clLens (size : Word) (nframes width height depth : Half) (tkey : Byte) (s : State) : (headerFields size nframes width height depth tkey s).clLens = s.clLens := rfl
@[simp] theorem headerFields_lens (size : Word) (nframes width height depth : Half) (tkey : Byte) (s : State) : (headerFields size nframes width height depth tkey s).lens = s.lens := rfl
@[simp] theorem headerFields_litTab (size : Word) (nframes width height depth : Half) (tkey : Byte) (s : State) : (headerFields size nframes width height depth tkey s).litTab = s.litTab := rfl
@[simp] theorem headerFields_distTab (size : Word) (nframes width height depth : Half) (tkey : Byte) (s : State) : (headerFields size nframes width height depth tkey s).distTab = s.distTab := rfl
@[simp] theorem headerFields_clTab (size : Word) (nframes width height depth : Half) (tkey : Byte) (s : State) : (headerFields size nframes width height depth tkey s).clTab = s.clTab := rfl
@[simp] theorem headerFields_clI (size : Word) (nframes width height depth : Half) (tkey : Byte) (s : State) : (headerFields size nframes width height depth tkey s).clI = s.clI := rfl
@[simp] theorem headerFields_lensN (size : Word) (nframes width height depth : Half) (tkey : Byte) (s : State) : (headerFields size nframes width height depth tkey s).lensN = s.lensN := rfl
@[simp] theorem headerFields_matchLen (size : Word) (nframes width height depth : Half) (tkey : Byte) (s : State) : (headerFields size nframes width height depth tkey s).matchLen = s.matchLen := rfl
@[simp] theorem headerFields_adlerA (size : Word) (nframes width height depth : Half) (tkey : Byte) (s : State) : (headerFields size nframes width height depth tkey s).adlerA = s.adlerA := rfl
@[simp] theorem headerFields_adlerB (size : Word) (nframes width height depth : Half) (tkey : Byte) (s : State) : (headerFields size nframes width height depth tkey s).adlerB = s.adlerB := rfl
@[simp] theorem headerFields_cur (size : Word) (nframes width height depth : Half) (tkey : Byte) (s : State) : (headerFields size nframes width height depth tkey s).cur = s.cur := rfl
@[simp] theorem headerFields_fileSize (size : Word) (nframes width height depth : Half) (tkey : Byte) (s : State) : (headerFields size nframes width height depth tkey s).fileSize = size.toNat := rfl
@[simp] theorem headerFields_nframes (size : Word) (nframes width height depth : Half) (tkey : Byte) (s : State) : (headerFields size nframes width height depth tkey s).nframes = nframes.toNat := rfl
@[simp] theorem headerFields_width (size : Word) (nframes width height depth : Half) (tkey : Byte) (s : State) : (headerFields size nframes width height depth tkey s).width = width.toNat := rfl
@[simp] theorem headerFields_height (size : Word) (nframes width height depth : Half) (tkey : Byte) (s : State) : (headerFields size nframes width height depth tkey s).height = height.toNat := rfl
@[simp] theorem headerFields_depth (size : Word) (nframes width height depth : Half) (tkey : Byte) (s : State) : (headerFields size nframes width height depth tkey s).depth = depth.toNat := rfl
@[simp] theorem headerFields_bpp (size : Word) (nframes width height depth : Half) (tkey : Byte) (s : State) : (headerFields size nframes width height depth tkey s).bpp = s.bpp := rfl
@[simp] theorem headerFields_tkey (size : Word) (nframes width height depth : Half) (tkey : Byte) (s : State) : (headerFields size nframes width height depth tkey s).tkey = tkey := rfl
@[simp] theorem headerFields_frameIdx (size : Word) (nframes width height depth : Half) (tkey : Byte) (s : State) : (headerFields size nframes width height depth tkey s).frameIdx = s.frameIdx := rfl
@[simp] theorem headerFields_frameStart (size : Word) (nframes width height depth : Half) (tkey : Byte) (s : State) : (headerFields size nframes width height depth tkey s).frameStart = s.frameStart := rfl
@[simp] theorem headerFields_frameEnd (size : Word) (nframes width height depth : Half) (tkey : Byte) (s : State) : (headerFields size nframes width height depth tkey s).frameEnd = s.frameEnd := rfl
@[simp] theorem headerFields_chunksLeft (size : Word) (nframes width height depth : Half) (tkey : Byte) (s : State) : (headerFields size nframes width height depth tkey s).chunksLeft = s.chunksLeft := rfl
@[simp] theorem headerFields_chunkStart (size : Word) (nframes width height depth : Half) (tkey : Byte) (s : State) : (headerFields size nframes width height depth tkey s).chunkStart = s.chunkStart := rfl
@[simp] theorem headerFields_chunkEnd (size : Word) (nframes width height depth : Half) (tkey : Byte) (s : State) : (headerFields size nframes width height depth tkey s).chunkEnd = s.chunkEnd := rfl
@[simp] theorem headerFields_ctype (size : Word) (nframes width height depth : Half) (tkey : Byte) (s : State) : (headerFields size nframes width height depth tkey s).ctype = s.ctype := rfl
@[simp] theorem headerFields_q (size : Word) (nframes width height depth : Half) (tkey : Byte) (s : State) : (headerFields size nframes width height depth tkey s).q = s.q := rfl
@[simp] theorem headerFields_palK (size : Word) (nframes width height depth : Half) (tkey : Byte) (s : State) : (headerFields size nframes width height depth tkey s).palK = s.palK := rfl
@[simp] theorem headerFields_palLast (size : Word) (nframes width height depth : Half) (tkey : Byte) (s : State) : (headerFields size nframes width height depth tkey s).palLast = s.palLast := rfl
@[simp] theorem headerFields_palNew (size : Word) (nframes width height depth : Half) (tkey : Byte) (s : State) : (headerFields size nframes width height depth tkey s).palNew = s.palNew := rfl
@[simp] theorem headerFields_palCount (size : Word) (nframes width height depth : Half) (tkey : Byte) (s : State) : (headerFields size nframes width height depth tkey s).palCount = s.palCount := rfl
@[simp] theorem headerFields_celX (size : Word) (nframes width height depth : Half) (tkey : Byte) (s : State) : (headerFields size nframes width height depth tkey s).celX = s.celX := rfl
@[simp] theorem headerFields_celY (size : Word) (nframes width height depth : Half) (tkey : Byte) (s : State) : (headerFields size nframes width height depth tkey s).celY = s.celY := rfl
@[simp] theorem headerFields_celW (size : Word) (nframes width height depth : Half) (tkey : Byte) (s : State) : (headerFields size nframes width height depth tkey s).celW = s.celW := rfl
@[simp] theorem headerFields_celH (size : Word) (nframes width height depth : Half) (tkey : Byte) (s : State) : (headerFields size nframes width height depth tkey s).celH = s.celH := rfl
@[simp] theorem headerFields_tagI (size : Word) (nframes width height depth : Half) (tkey : Byte) (s : State) : (headerFields size nframes width height depth tkey s).tagI = s.tagI := rfl
@[simp] theorem headerFields_tagN (size : Word) (nframes width height depth : Half) (tkey : Byte) (s : State) : (headerFields size nframes width height depth tkey s).tagN = s.tagN := rfl
@[simp] theorem headerFields_sliceLabel (size : Word) (nframes width height depth : Half) (tkey : Byte) (s : State) : (headerFields size nframes width height depth tkey s).sliceLabel = s.sliceLabel := rfl
@[simp] theorem headerFields_flipL (size : Word) (nframes width height depth : Half) (tkey : Byte) (s : State) : (headerFields size nframes width height depth tkey s).flipL = s.flipL := rfl

@[simp] theorem reset_cfg : State.reset.cfg = Config.default := rfl
@[simp] theorem reset_ctrl : State.reset.ctrl = 0 := rfl
@[simp] theorem reset_status : State.reset.status = 0 := rfl
@[simp] theorem reset_errInfo : State.reset.errInfo = 0 := rfl
@[simp] theorem reset_errOffset : State.reset.errOffset = 0 := rfl
@[simp] theorem reset_inLen : State.reset.inLen = 0 := rfl
@[simp] theorem reset_res : State.reset.res = Results.zero := rfl
@[simp] theorem reset_host : State.reset.host = [] := rfl
@[simp] theorem reset_rx : State.reset.rx = none := rfl
@[simp] theorem reset_inp : State.reset.inp = [] := rfl
@[simp] theorem reset_inEpoch : State.reset.inEpoch = 0 := rfl
@[simp] theorem reset_tile : State.reset.tile = [] := rfl
@[simp] theorem reset_tileEpoch : State.reset.tileEpoch = 0 := rfl
@[simp] theorem reset_atlas : State.reset.atlas = [] := rfl
@[simp] theorem reset_atlasLen : State.reset.atlasLen = 0 := rfl
@[simp] theorem reset_pal : State.reset.pal = [] := rfl
@[simp] theorem reset_dur : State.reset.dur = [] := rfl
@[simp] theorem reset_tags : State.reset.tags = [] := rfl
@[simp] theorem reset_slices : State.reset.slices = [] := rfl
@[simp] theorem reset_seq : State.reset.seq = .idle := rfl
@[simp] theorem reset_phase : State.reset.phase = .head := rfl
@[simp] theorem reset_brStart : State.reset.brStart = 0 := rfl
@[simp] theorem reset_brEnd : State.reset.brEnd = 0 := rfl
@[simp] theorem reset_brPos : State.reset.brPos = 0 := rfl
@[simp] theorem reset_outPos : State.reset.outPos = 0 := rfl
@[simp] theorem reset_outCap : State.reset.outCap = 0 := rfl
@[simp] theorem reset_bfinal : State.reset.bfinal = false := rfl
@[simp] theorem reset_btype : State.reset.btype = 0 := rfl
@[simp] theorem reset_hlit : State.reset.hlit = 0 := rfl
@[simp] theorem reset_hdist : State.reset.hdist = 0 := rfl
@[simp] theorem reset_hclen : State.reset.hclen = 0 := rfl
@[simp] theorem reset_clLens : State.reset.clLens = List.replicate 19 0 := rfl
@[simp] theorem reset_lens : State.reset.lens = List.replicate 320 0 := rfl
@[simp] theorem reset_litTab : State.reset.litTab = Table.empty := rfl
@[simp] theorem reset_distTab : State.reset.distTab = Table.empty := rfl
@[simp] theorem reset_clTab : State.reset.clTab = Table.empty := rfl
@[simp] theorem reset_clI : State.reset.clI = 0 := rfl
@[simp] theorem reset_lensN : State.reset.lensN = 0 := rfl
@[simp] theorem reset_matchLen : State.reset.matchLen = 0 := rfl
@[simp] theorem reset_adlerA : State.reset.adlerA = 0 := rfl
@[simp] theorem reset_adlerB : State.reset.adlerB = 0 := rfl
@[simp] theorem reset_cur : State.reset.cur = 0 := rfl
@[simp] theorem reset_fileSize : State.reset.fileSize = 0 := rfl
@[simp] theorem reset_nframes : State.reset.nframes = 0 := rfl
@[simp] theorem reset_width : State.reset.width = 0 := rfl
@[simp] theorem reset_height : State.reset.height = 0 := rfl
@[simp] theorem reset_depth : State.reset.depth = 0 := rfl
@[simp] theorem reset_bpp : State.reset.bpp = 0 := rfl
@[simp] theorem reset_tkey : State.reset.tkey = 0 := rfl
@[simp] theorem reset_frameIdx : State.reset.frameIdx = 0 := rfl
@[simp] theorem reset_frameStart : State.reset.frameStart = 0 := rfl
@[simp] theorem reset_frameEnd : State.reset.frameEnd = 0 := rfl
@[simp] theorem reset_chunksLeft : State.reset.chunksLeft = 0 := rfl
@[simp] theorem reset_chunkStart : State.reset.chunkStart = 0 := rfl
@[simp] theorem reset_chunkEnd : State.reset.chunkEnd = 0 := rfl
@[simp] theorem reset_ctype : State.reset.ctype = 0 := rfl
@[simp] theorem reset_q : State.reset.q = 0 := rfl
@[simp] theorem reset_palK : State.reset.palK = 0 := rfl
@[simp] theorem reset_palLast : State.reset.palLast = 0 := rfl
@[simp] theorem reset_palNew : State.reset.palNew = 0 := rfl
@[simp] theorem reset_palCount : State.reset.palCount = 0 := rfl
@[simp] theorem reset_celX : State.reset.celX = 0 := rfl
@[simp] theorem reset_celY : State.reset.celY = 0 := rfl
@[simp] theorem reset_celW : State.reset.celW = 0 := rfl
@[simp] theorem reset_celH : State.reset.celH = 0 := rfl
@[simp] theorem reset_tagI : State.reset.tagI = 0 := rfl
@[simp] theorem reset_tagN : State.reset.tagN = 0 := rfl
@[simp] theorem reset_sliceLabel : State.reset.sliceLabel = [] := rfl
@[simp] theorem reset_flipL : State.reset.flipL = false := rfl

end Sys2Proof.Machine
end

