-- ==== Sys2Proof/Laws/Ops.lean ====
section
/-! SUPPORT. What each shared operation can do, once: the lemmas to cite instead of unfolding it. -/

namespace Sys2Proof.Machine

/-! ## Failures -/

@[simp] theorem orRaise_ok {α : Type} (v : α) (s : State) (k : α → Answer) : orRaise (.ok v) s k = k v := rfl

@[simp] theorem orRaise_error {α : Type} (c : Cause) (s : State) (k : α → Answer) :
    orRaise (.error c) s k = raise c s := rfl

/-- A failure is always a next state. -/
theorem raise_eq (c : Cause) (s : State) : raise c s = .next (failEntry c s) := rfl

/-! ## BitReader -/

@[simp] theorem bitStream_length (s : State) : (bitStream s).length = avail s := by simp [bitStream]

/-- A field is read when its bits are left, and BR_POS moves past it. -/
theorem getBits_eq (n : Nat) (s : State) :
    getBits n s = if avail s < n then .error .truncated
      else .ok (bitsValue ((bitStream s).take n), advanceBits n s) := by
  unfold getBits
  rw [takeBits_eq, bitStream_length]
  split <;> simp_all

theorem getBits_ok {n v : Nat} {s t : State} (h : getBits n s = .ok (v, t)) :
    n ≤ avail s ∧ v = bitsValue ((bitStream s).take n) ∧ t = advanceBits n s := by
  rw [getBits_eq] at h
  split at h
  · cases h
  · rename_i hn
    simp only [Except.ok.injEq, Prod.mk.injEq] at h
    exact ⟨by omega, h.1.symm, h.2.symm⟩

/-- A byte is read when 8 bits are left. -/
theorem readByte_eq (s : State) :
    readByte s = if avail s < 8 then .error .truncated
      else .ok (BitVec.ofNat 8 (bitsValue ((bitStream s).take 8)), advanceBits 8 s) := by
  unfold readByte
  rw [getBits_eq]
  by_cases h : avail s < 8 <;> simp [h]

theorem readByte_ok {s t : State} {b : Byte} (h : readByte s = .ok (b, t)) :
    8 ≤ avail s ∧ b = BitVec.ofNat 8 (bitsValue ((bitStream s).take 8)) ∧ t = advanceBits 8 s := by
  rw [readByte_eq] at h
  split at h
  · cases h
  · simp only [Except.ok.injEq, Prod.mk.injEq] at h
    exact ⟨by omega, h.1.symm, h.2.symm⟩

theorem avail_advanceBits (n : Nat) (s : State) : avail (advanceBits n s) = avail s - n := by
  simp [avail, Nat.sub_sub]

@[simp] theorem avail_put (b : Byte) (s : State) : avail (put b s) = avail s := rfl

/-! ## Output -/

/-- Outside the output, its checksum and its position, a match copy changes nothing. -/
theorem matchCopy_frame (dist n : Nat) (s : State) :
    matchCopy dist n s =
      { s with
        tile := (matchCopy dist n s).tile
        adlerA := (matchCopy dist n s).adlerA
        adlerB := (matchCopy dist n s).adlerB
        outPos := s.outPos + n } := by
  induction n generalizing s with
  | zero => rfl
  | succ n ih =>
    simp only [matchCopy]
    rw [ih]
    simp only [put]
    congr 1
    omega

/-- A match copy leaves every byte of the tile below the output position, and at or above its own end. -/
theorem matchCopy_find (dist n : Nat) (s : State) (a : Nat) (h : a < s.outPos ∨ s.outPos + n ≤ a) :
    (matchCopy dist n s).tile.find a = s.tile.find a := by
  induction n generalizing s with
  | zero => rfl
  | succ n ih =>
    simp only [matchCopy]
    rw [ih _ (by simp only [put_outPos]; omega), put_tile, Memory.find_write_other (by omega)]

theorem matchCopy_wf (dist n : Nat) {s : State} (h : Memory.wf none s.tile = true) :
    Memory.wf none (matchCopy dist n s).tile = true := by
  induction n generalizing s with
  | zero => exact h
  | succ n ih => exact ih (Memory.wf_write h)

/-- A stored copy that ends well consumes its bytes and changes only the output and BR_POS. -/
theorem storedCopy_frame {n : Nat} {s t : State} (h : storedCopy n s = .ok t) :
    8 * n ≤ avail s ∧
      t = { s with
        tile := t.tile, adlerA := t.adlerA, adlerB := t.adlerB
        outPos := s.outPos + n, brPos := s.brPos + 8 * n } := by
  induction n generalizing s with
  | zero => simp only [storedCopy, Except.ok.injEq] at h; subst h; exact ⟨by omega, rfl⟩
  | succ n ih =>
    simp only [storedCopy] at h
    split at h
    · cases h
    · rename_i b u hr
      obtain ⟨h8, -, rfl⟩ := readByte_ok hr
      obtain ⟨hn, ht⟩ := ih h
      rw [avail_put, avail_advanceBits] at hn
      refine ⟨by omega, ?_⟩
      rw [ht]
      simp only [put, advanceBits]
      congr 1 <;> omega

/-- A stored copy whose bytes are there ends well. -/
theorem storedCopy_ok {n : Nat} {s : State} (h : 8 * n ≤ avail s) : ∃ t, storedCopy n s = .ok t := by
  induction n generalizing s with
  | zero => exact ⟨s, rfl⟩
  | succ n ih =>
    simp only [storedCopy]
    have h8 : ¬ avail s < 8 := by omega
    rw [readByte_eq, if_neg h8]
    exact ih (by rw [avail_put, avail_advanceBits]; omega)

theorem storedCopy_wf {n : Nat} {s t : State} (h : storedCopy n s = .ok t) (hs : Memory.wf none s.tile = true) :
    Memory.wf none t.tile = true := by
  induction n generalizing s with
  | zero => simp only [storedCopy, Except.ok.injEq] at h; subst h; exact hs
  | succ n ih =>
    simp only [storedCopy] at h
    split at h
    · cases h
    · rename_i b u hr
      obtain ⟨-, -, rfl⟩ := readByte_ok hr
      exact ih h (Memory.wf_write hs)

/-- What a match can do: one of its two failures, or the copy. -/
theorem finishMatch_cases (sym extra : Nat) (s : State) :
    (s.outPos < distanceOperand sym extra ∧ finishMatch sym extra s = raise .distanceTooFar s) ∨
    (distanceOperand sym extra ≤ s.outPos ∧ s.outCap - s.outPos < s.matchLen ∧
      finishMatch sym extra s = raise .outputOverflow s) ∨
    (distanceOperand sym extra ≤ s.outPos ∧ s.matchLen ≤ s.outCap - s.outPos ∧
      finishMatch sym extra s =
        .next { matchCopy (distanceOperand sym extra) s.matchLen s with seq := .symbols, phase := .head }) := by
  unfold finishMatch
  by_cases h1 : s.outPos < distanceOperand sym extra
  · exact .inl ⟨h1, by simp [h1]⟩
  · by_cases h2 : s.outCap - s.outPos < s.matchLen
    · exact .inr (.inl ⟨by omega, h2, by simp [h1, h2]⟩)
    · exact .inr (.inr ⟨by omega, by omega, by simp [h1, h2]⟩)

/-! ## Code lengths -/

@[simp] theorem setRun_length (v n i : Nat) (l : List Nat) : (setRun v n i l).length = l.length := by
  induction n generalizing i l with
  | zero => rfl
  | succ n ih => simp [setRun, ih]

theorem setRun_mem {v n i x : Nat} {l : List Nat} (h : x ∈ setRun v n i l) : x ∈ l ∨ x = v := by
  induction n generalizing i l with
  | zero => exact .inl h
  | succ n ih =>
    rcases ih h with h | h
    · exact List.mem_or_eq_of_mem_set h
    · exact .inr h

/-- What a run of lengths can do. -/
theorem putRun_cases (v r : Nat) (s : State) :
    (s.hlit + s.hdist < s.lensN + r ∧ putRun v r s = raise .badRepeat s) ∨
    (s.lensN + r ≤ s.hlit + s.hdist ∧
      putRun v r s = .next { s with lens := setRun v r s.lensN s.lens, lensN := s.lensN + r }) := by
  unfold putRun
  by_cases h : s.hlit + s.hdist < s.lensN + r
  · exact .inl ⟨h, by simp [h]⟩
  · exact .inr ⟨by omega, by simp [h]⟩

/-! ## Container -/

/-- What the frame loop can do. -/
theorem frameLoop_cases (f : Nat) (s : State) :
    (f < s.nframes ∧ frameLoop f s = { s with frameIdx := f, seq := .frameHdr, phase := .head }) ∨
    (s.nframes ≤ f ∧ frameLoop f s = afterFrames s) := by
  unfold frameLoop
  by_cases h : f < s.nframes
  · exact .inl ⟨h, by simp [h]⟩
  · exact .inr ⟨by omega, by simp [h]⟩

/-! ## Atlas -/

theorem cells_wfAbove (n k : Nat) {b : Byte} (hb : b ≠ 0) (lo : Option Nat) (hlo : Memory.above lo k) :
    Memory.wfAbove (some 0) lo ((List.range' k n).map fun a => (a, b)) = true := by
  induction n generalizing k lo with
  | zero => rfl
  | succ n ih =>
    rw [List.range'_succ, List.map_cons, Memory.wfAbove_cons]
    refine ⟨hlo, fun h => hb (Option.some.inj h).symm, ih (k + 1) (some k) ?_⟩
    intro l hl; cases hl; omega

/-- A filled atlas is in canonical form. -/
theorem fillCells_wf (n : Nat) (b : Byte) : Memory.wf (some 0) (fillCells n b) = true := by
  unfold fillCells
  split
  · rfl
  · rename_i hb
    rw [List.range_eq_range']
    exact cells_wfAbove n 0 hb none (fun _ h => by cases h)

theorem cells_find (n k a : Nat) (b : Byte) :
    Memory.find ((List.range' k n).map fun a => (a, b)) a = if k ≤ a ∧ a < k + n then some b else none := by
  induction n generalizing k with
  | zero => rw [if_neg (by omega)]; rfl
  | succ n ih =>
    rw [List.range'_succ, List.map_cons]
    simp only [Memory.find, ih]
    by_cases h : k = a
    · subst h; simp
    · simp only [h, if_false]
      split <;> split <;> first | rfl | (exfalso; omega)

/-- Every byte of a filled atlas reads as the fill value. -/
theorem fillCells_read (n a : Nat) (b : Byte) (h : a < n) : Memory.read (some 0) (fillCells n b) a = some b := by
  unfold fillCells Memory.read
  split
  · rename_i hb; simp [Memory.find, hb]
  · rw [List.range_eq_range', cells_find, if_pos (by omega)]; rfl

theorem swapBytes_wf (a b n : Nat) {m : Memory} (h : Memory.wf (some 0) m = true) :
    Memory.wf (some 0) (swapBytes a b n m) = true := by
  induction n with
  | zero => exact h
  | succ n ih => exact Memory.wf_write (Memory.wf_write ih)

theorem flipRows_wf (S height rows : Nat) {m : Memory} (h : Memory.wf (some 0) m = true) :
    Memory.wf (some 0) (flipRows S height rows m) = true := by
  induction rows with
  | zero => exact h
  | succ n ih => exact swapBytes_wf _ _ _ ih

theorem blitRows_wf (s : State) (rows : Nat) (h : Memory.wf (some 0) s.atlas = true) :
    Memory.wf (some 0) (blitRows s rows) = true := by
  induction rows with
  | zero => exact h
  | succ n ih => exact Memory.wf_fill _ ih

end Sys2Proof.Machine
end

