-- ==== Sys2Proof/Laws/Fields.lean ====
section
/-! SUPPORT. Fields of whole bytes and of the reader's bits: what a field gives, and what it leaves; and the failure. -/

namespace Sys2Proof.Machine

open Sys2Proof.Safety

/-- A raised cause is the failure, whatever datapath registers the raising step has written. -/
theorem failsWith_raise {c : Cause} {s s' : State} {offset : Nat} (ho : errAddress c s' = offset)
    (hr : s'.res = s.res) (hc : s'.ctrl = s.ctrl) (hl : s'.inLen = s.inLen) (hi : s'.inp = s.inp)
    (he : s'.inEpoch = s.inEpoch) (hh : s'.host = s.host) (hx : s'.rx = s.rx) (hp : s'.cfg = s.cfg) :
    FailsWith c offset s (raise c s') :=
  ⟨failEntry c s', rfl, rfl, by rw [← ho]; rfl, rfl, rfl, ⟨rfl, rfl, rfl, rfl, rfl, rfl⟩, hr, hc, hl, hi, he, hh, hx, hp⟩

/-- The value of two runs of bits, the first the less significant. -/
theorem bitsValue_append (as bs : Bits) : bitsValue (as ++ bs) = bitsValue as + 2 ^ as.length * bitsValue bs := by
  induction as with
  | nil => simp [bitsValue]
  | cons a as ih => simp only [List.cons_append, bitsValue, ih, List.length_cons, pow_succ]; ring

/-- A field may be read in two parts. -/
theorem field_add {α : Type} (m n : Nat) (bs : Bits) (k : Nat → Bits → Except Reject α) :
    field (m + n) bs k = field m bs fun v bs => field n bs fun w bs => k (v + 2 ^ m * w) bs := by
  unfold field
  simp only [takeBits_eq]
  by_cases hm : bs.length < m
  · rw [if_pos (by omega), if_pos hm]
  · rw [if_neg hm]
    simp only [List.length_drop]
    by_cases hn : bs.length - m < n
    · rw [if_pos (by omega), if_pos hn]
    · rw [if_neg (by omega), if_neg hn]
      simp only [List.take_add, List.drop_drop]
      rw [bitsValue_append, List.length_take, min_eq_left (by omega)]

@[simp] theorem inBytes_length (s : State) (a n : Nat) : (inBytes s a n).length = n := by simp [inBytes]

theorem inBytes_succ (s : State) (a n : Nat) : inBytes s a (n + 1) = inByte s a :: inBytes s (a + 1) n := by
  simp only [inBytes, List.range_succ_eq_map, List.map_cons, List.map_map, Nat.add_zero]
  congr 1
  apply List.map_congr_left
  intro k _
  simp only [Function.comp_apply]
  congr 1
  omega

theorem inBytes_append (s : State) (a m n : Nat) :
    inBytes s a (m + n) = inBytes s a m ++ inBytes s (a + m) n := by
  induction m generalizing a with
  | zero => simp [inBytes]
  | succ m ih =>
    rw [show m + 1 + n = (m + n) + 1 by omega, inBytes_succ, ih, inBytes_succ, List.cons_append]
    congr 2
    congr 1
    omega

theorem bitsOfBytes_append (l m : List Byte) : bitsOfBytes (l ++ m) = bitsOfBytes l ++ bitsOfBytes m := by
  induction l with
  | nil => rfl
  | cons b l ih => simp [bitsOfBytes, ih]

/-- A field of 8 bits is the next byte. -/
theorem field8_inBytes {α : Type} (s : State) (a n : Nat) (k : Nat → Bits → Except Reject α) :
    field 8 (bitsOfBytes (inBytes s a (n + 1))) k = k (inByte s a).toNat (bitsOfBytes (inBytes s (a + 1) n)) := by
  rw [inBytes_succ]
  simp only [bitsOfBytes, field_bitsOf]
  rw [Nat.mod_eq_of_lt (inByte s a).isLt]

/-- A field of 16 bits is a little-endian u16 (20_memory.md R78). -/
theorem field16_inBytes {α : Type} (s : State) (a n : Nat) (k : Nat → Bits → Except Reject α) :
    field 16 (bitsOfBytes (inBytes s a (n + 2))) k = k (u16le s a) (bitsOfBytes (inBytes s (a + 2) n)) := by
  rw [show (16 : Nat) = 8 + 8 from rfl, field_add, field8_inBytes, field8_inBytes]
  rfl

/-- A field of 32 bits is a little-endian u32 (20_memory.md R78). -/
theorem field32_inBytes {α : Type} (s : State) (a n : Nat) (k : Nat → Bits → Except Reject α) :
    field 32 (bitsOfBytes (inBytes s a (n + 4))) k = k (u32le s a) (bitsOfBytes (inBytes s (a + 4) n)) := by
  rw [show (32 : Nat) = 16 + 16 from rfl, field_add, field16_inBytes, field16_inBytes]
  congr 1
  simp only [u16le, u32le]
  ring

/-- Passing over whole bytes. -/
theorem skip_inBytes {α : Type} (s : State) (a m n : Nat) (k : Bits → Except Reject α) :
    skip (8 * m) (bitsOfBytes (inBytes s a (m + n))) k = k (bitsOfBytes (inBytes s (a + m) n)) := by
  rw [inBytes_append, bitsOfBytes_append]
  have hl : (bitsOfBytes (inBytes s a m)).length = 8 * m := by simp
  unfold skip
  rw [if_neg (by simp), List.drop_left' hl]

/-- Passing over whole bytes, at any spelling of the widths. -/
theorem skip_inBytes_of {α : Type} (s : State) (a m n : Nat) {w l : Nat} (k : Bits → Except Reject α) (hw : w = 8 * m)
    (hl : l = m + n) : skip w (bitsOfBytes (inBytes s a l)) k = k (bitsOfBytes (inBytes s (a + m) n)) := by
  subst hw hl; exact skip_inBytes s a m n k

/-- A label of whole bytes. -/
theorem takeBytes_inBytes (s : State) (a m n : Nat) :
    takeBytes m (bitsOfBytes (inBytes s a (m + n))) = some (inBytes s a m, bitsOfBytes (inBytes s (a + m) n)) := by
  rw [inBytes_append, bitsOfBytes_append]
  have := takeBytes_bitsOfBytes (inBytes s a m) (bitsOfBytes (inBytes s (a + m) n))
  rwa [inBytes_length] at this

/-- A field that does not fit its bytes is refused. -/
theorem field_short {α : Type} {n : Nat} {bs : Bits} (k : Nat → Bits → Except Reject α) (h : bs.length < n) :
    field n bs k = .error .short := by
  unfold field; rw [takeBits_eq, if_pos h]

/-- Too few bytes for a label are refused. -/
theorem takeBytes_none {n : Nat} {bs : Bits} (h : bs.length < 8 * n) : takeBytes n bs = none := by
  cases hr : takeBytes n bs with
  | none => rfl
  | some p => have := (takeBytes_some (l := p.1) (rest := p.2) hr).2; omega

/-- A field of the reader's bits is the sum of its bits (00_scope.md R15). -/
theorem bitsValue_take_bitStream (s : State) (n : Nat) (h : n ≤ avail s) :
    bitsValue ((bitStream s).take n) = streamField s s.brPos n := by
  have key : ∀ (f : Nat → Bool) (m : Nat), bitsValue ((List.range m).map f) = ∑ k ∈ Finset.range m, (f k).toNat * 2 ^ k := by
    intro f m
    induction m with
    | zero => rfl
    | succ m ih =>
      rw [List.range_succ, List.map_append, bitsValue_append, ih, Finset.sum_range_succ]
      simp [bitsValue]; ring
  unfold bitStream streamField
  rw [← List.map_take, List.take_range, min_eq_left h, key]

/-- The reader's bits after the first `n`. -/
theorem drop_bitStream (s : State) (n : Nat) : (bitStream s).drop n = bitStream (advanceBits n s) := by
  unfold bitStream
  rw [avail_advanceBits, ← List.map_drop]
  apply List.ext_getElem
  · simp
  · intro i h1 h2
    simp only [List.getElem_map, List.getElem_drop, List.getElem_range]
    simp only [streamBit, advanceBits]
    rw [show s.brPos + (n + i) = s.brPos + n + i by omega]
    rfl

/-- A field of the reader's bits. -/
theorem field_bitStream {α : Type} (s : State) (n : Nat) (k : Nat → Bits → Except Reject α) (h : n ≤ avail s) :
    field n (bitStream s) k = k (streamField s s.brPos n) (bitStream (advanceBits n s)) := by
  unfold field
  rw [takeBits_eq, if_neg (by simpa using h), bitsValue_take_bitStream s n h, drop_bitStream]

/-- After a symbol is decoded from the reader's bits, the bits left are the reader's bits past its codeword. -/
theorem decodeSymbol_bitStream {s : State} {T : Table} {sym : Nat} {rest : Bits}
    (h : decodeSymbol T (bitStream s) = .ok (sym, rest)) :
    rest.length ≤ avail s ∧ rest = bitStream (advanceBits (avail s - rest.length) s) := by
  obtain ⟨⟨n, h1, h2, rfl, h4⟩, -⟩ := decodeFrom_ok h
  simp only [List.length_drop, bitStream_length] at *
  refine ⟨by omega, ?_⟩
  rw [drop_bitStream, show avail s - (avail s - n) = n by omega]

/-- A symbol's token, with its extra bits read from the reader's bits. -/
theorem decodeRow_bitStream {s : State} {n : Nat} (mk : Nat → Instr) (h : n ≤ avail s) :
    decodeRow (n, mk) (bitStream s) = .ok (mk (streamField s s.brPos n), bitStream (advanceBits n s)) :=
  field_bitStream s n _ h

/-- A symbol whose extra bits are cut off is refused. -/
theorem decodeRow_short {n : Nat} {bs : Bits} (mk : Nat → Instr) (h : bs.length < n) :
    decodeRow (n, mk) bs = .error .short :=
  field_short _ h

/-- A field of the reader's bits lies below its width. -/
theorem streamField_lt (s : State) (n : Nat) (h : n ≤ avail s) : streamField s s.brPos n < 2 ^ n := by
  rw [← bitsValue_take_bitStream s n h]
  have := bitsValue_lt ((bitStream s).take n)
  rwa [List.length_take, bitStream_length, min_eq_left h] at this

end Sys2Proof.Machine
end

