-- ==== Sys2Proof/Laws/Step.lean ====
section
/-! SUPPORT. What one step is, by the host's schedule and the engine's place. -/

namespace Sys2Proof.Machine

theorem step_engine {s : State} (h : s.host = []) : step s = engineStep s := by
  simp [step, machineStep, h]

theorem step_wait {s : State} {rest : List HostOp} (h : s.host = .wait :: rest) :
    step s = engineStep { s with host := rest } := by
  simp [step, machineStep, h]

theorem step_host {s : State} {op : HostOp} {rest : List HostOp} (h : s.host = op :: rest) (hw : op ≠ .wait) :
    step s = hostAct op { s with host := rest } := by
  cases op <;> simp_all [step, machineStep]

theorem engineStep_sequence {s : State} (h : nextSite s = none) : engineStep s = sequence s := by
  simp [engineStep, h]

theorem engineStep_token {s : State} {site : Site} {i : Instr} {n : Nat} (h : nextSite s = some site)
    (hf : fetch site s = .ok (i, n)) : engineStep s = exec i (pastToken site n s) := by
  simp [engineStep, h, hf]

theorem engineStep_rejected {s : State} {site : Site} {r : Reject} (h : nextSite s = some site)
    (hf : fetch site s = .error r) : engineStep s = rejected site r (enterSite site s) := by
  simp [engineStep, h, hf]

/-- A fetched token is what the decoder reads at the place. -/
theorem fetch_ok {s : State} {site : Site} {i : Instr} {n : Nat} (h : fetch site s = .ok (i, n)) :
    ∃ rest, decode site (siteTable site (enterSite site s)) (siteBits site (enterSite site s)) = .ok (i, rest) ∧
      n = (siteBits site (enterSite site s)).length - rest.length := by
  simp only [fetch] at h
  split at h
  · cases h
  · rename_i j rest hd
    simp only [Except.ok.injEq, Prod.mk.injEq] at h
    obtain ⟨rfl, rfl⟩ := h
    exact ⟨rest, hd, rfl⟩

/-- A step that runs the token the decoder reads at the engine's place. -/
theorem step_token {s : State} {site : Site} {i : Instr} {rest : Bits} (h : s.host = []) (hn : nextSite s = some site)
    (hd : decode site (siteTable site (enterSite site s)) (siteBits site (enterSite site s)) = .ok (i, rest)) :
    step s = exec i (pastToken site ((siteBits site (enterSite site s)).length - rest.length) s) := by
  rw [step_engine h]
  exact engineStep_token hn (by simp [fetch, hd])

/-- A step at a place where the decoder reads no token. -/
theorem step_rejected {s : State} {site : Site} {r : Reject} (h : s.host = []) (hn : nextSite s = some site)
    (hd : decode site (siteTable site (enterSite site s)) (siteBits site (enterSite site s)) = .error r) :
    step s = rejected site r (enterSite site s) := by
  rw [step_engine h]
  exact engineStep_rejected hn (by simp [fetch, hd])

/-- A step that moves the sequencer. -/
theorem step_sequence {s : State} (h : s.host = []) (hn : nextSite s = none) : step s = sequence s := by
  rw [step_engine h]; exact engineStep_sequence hn

/-- A write of CTRL is START where bit 0 is set, else a write of FLIP. -/
theorem writeCtrl_eq (v : Reg) (s : State) :
    writeCtrl v s = if ctrlStart v then exec (.start (ctrlFlip v)) s else .next (writeFlip (ctrlFlip v) s) := by
  have hd : decode .ctrl Table.empty (bitsOf 64 v.toNat) =
      if ctrlStart v then .ok (.start (ctrlFlip v), []) else .error .noStart := by
    have hb : bitsOf 64 v.toNat =
        bitsOf 1 v.toNat ++ (bitsOf 1 (v.toNat / 2) ++ (bitsOf 62 (v.toNat / 2 / 2) ++ [])) := by
      rw [List.append_nil]; rfl
    rw [hb]
    simp only [decode, decodeCtrl, field_bitsOf, skip_bitsOf, pow_one, ctrlStart, ctrlFlip, BitVec.getLsbD,
      Nat.testBit_zero]
    rw [show (1 : Nat) = 0 + 1 from rfl, Nat.testBit_succ, Nat.testBit_zero]
    by_cases h : v.toNat % 2 = 1
    · simp only [h, Nat.reduceAdd, decide_true, if_true]; rfl
    · simp [h]
  unfold writeCtrl
  rw [hd]
  cases ctrlStart v <;> rfl

/-- What START does: FLIP is set where its own bit or an earlier write sets it, and a load starts unless one runs. -/
theorem execStart_cases (flip : Bool) (s : State) :
    (busy s = true ∧ execStart flip s = .next (writeFlip (flip || ctrlFlip s.ctrl) s)) ∨
    (busy s = false ∧ execStart flip s = .next (startLoad (writeFlip (flip || ctrlFlip s.ctrl) s))) := by
  have hb : busy (writeFlip (flip || ctrlFlip s.ctrl) s) = busy s := rfl
  unfold execStart
  cases h : busy s
  · exact .inr ⟨rfl, by simp only [hb, h]; rfl⟩
  · exact .inl ⟨rfl, by simp only [hb, h]; rfl⟩

end Sys2Proof.Machine
end

