-- ==== Sys2Proof/Tests/Slice0.lean ====
section
/-! SUPPORT. Tests: ill-formed terms refused, words decoded, the spec's examples on small states, and for every statement
with hypotheses a state that meets them. Expected values are the spec's or worked by hand from it. -/

namespace Sys2Proof.Tests

open Sys2Proof Sys2Proof.Machine Sys2Proof.Safety

/-! ## WellFormed refuses -/

theorem test_wf_slice_label_with_flags : Instr.wf (.chunkSlice 1 1 [0x68]) = false := by decide
theorem test_wf_slice_label_too_long : Instr.wf (.chunkSlice 1 0 (List.replicate 65536 0)) = false := by
  decide +kernel
theorem test_wf_known_chunk_type : Instr.wf (.chunkOther 0x2019) = false := by decide
theorem test_wf_entry_with_name : Instr.wf (.palEntry 1 0 0 0 0) = false := by decide
theorem test_wf_named_entry_without_flag : Instr.wf (.palEntryNamed 2) = false := by decide
theorem test_wf_other_cel_type_2 : Instr.wf (.celTypeOther 2) = false := by decide
theorem test_wf_tag_label_too_long : Instr.wf (.tagRec 0 0 (List.replicate 65536 0)) = false := by decide +kernel
theorem test_wf_zlib_header : Instr.wf (.zlibHdr 0x78 0x9D) = false := by decide
theorem test_wf_zlib_window : Instr.wf (.zlibHdr 0x88 0x1C) = false := by decide
theorem test_wf_length_symbol : Instr.wf (.lenInvalid 285) = false := by decide
theorem test_wf_distance_symbol : Instr.wf (.distInvalid 29) = false := by decide

/-! ## The spec's examples, one step each -/

/-- A running load at a sequencer state. -/
def at_ (seq : Seq) (phase : Phase := .head) : State := { State.reset with status := 1, seq := seq, phase := phase }

/-- The state a step answers, if it answers one. -/
def next? (o : Answer) : Option State :=
  match o with
  | .next t => some t
  | _ => none

/-- 42_inflate.md R228: output `ab`, then a match of 5 at distance 2, gives `abababa`. -/
theorem test_match_overlaps :
    (next? (exec .dist1 { at_ .symbols .tail with
      tile := [(0, 0x61), (1, 0x62)], outPos := 2, outCap := 7, matchLen := 5 })).map (fun t => (t.tile.map Prod.snd, t.outPos)) =
    some ([0x61, 0x62, 0x61, 0x62, 0x61, 0x62, 0x61], 7) := by
  decide

/-- 45_atlas.md R382: frame 1, a 2 by 2 tile `11 22 33 44` in an atlas of stride 4. -/
theorem test_blit_example :
    (blit { at_ .blit with
      frameIdx := 1, celW := 2, celH := 2, bpp := 1, width := 2, height := 2, nframes := 2
      tile := [(0, 0x11), (1, 0x22), (2, 0x33), (3, 0x44)] }).atlas =
    [(2, 0x11), (3, 0x22), (6, 0x33), (7, 0x44)] := by
  decide

/-- 45_atlas.md R384: three rows of one byte. -/
theorem test_flip_example :
    (flipAtlas { at_ .flip with height := 3, width := 1, nframes := 1, bpp := 1, atlas := [(0, 1), (1, 2), (2, 3)] }).atlas =
    [(0, 3), (1, 2), (2, 1)] := by
  decide

/-- 45_atlas.md R380: depth 8, TKEY 5, a 2 by 1 canvas with one frame. -/
theorem test_atlas_init_example :
    (initAtlas { at_ .fileHdr with width := 2, height := 1, nframes := 1, bpp := 1, tkey := 5 }).atlas =
    [(0, 5), (1, 5)] := by
  decide

/-- 40_bit_reader.md R153: over `B5 01`, three bits give 5 and the next six give 54. -/
theorem test_get_bits_example :
    (getBits 3 { at_ .symbols with inp := [(0, 0xB5), (1, 0x01)], brEnd := 2 }).toOption.map Prod.fst = some 5 ∧
    (getBits 6 { at_ .symbols with inp := [(0, 0xB5), (1, 0x01)], brEnd := 2, brPos := 3 }).toOption.map Prod.fst =
      some 54 := by
  decide

/-- 40_bit_reader.md R156: 3 becomes 8, 16 stays 16. -/
theorem test_align_example : alignUp 3 = 8 ∧ alignUp 16 = 16 := by decide

/-- 43_zlib_adler.md R307: the output `a` has checksum 0x00620062. -/
theorem test_adler_example :
    (fun t : State => adlerValue t.adlerA t.adlerB) (put 0x61 { at_ .symbols with adlerA := 1, adlerB := 0, outCap := 1 }) =
    0x00620062 := by
  decide

/-- 41_huffman.md R170, R171: the lengths 2, 1, 3, 3. -/
theorem test_table_example :
    (buildTable [2, 1, 3, 3] 4 4).toOption.map (fun T => (T.sorted, T.count.take 4, T.index.take 4, T.first.take 4)) =
    some ([1, 0, 2, 3], [0, 1, 1, 2], [0, 0, 1, 2], [0, 0, 2, 6]) := by
  decide +kernel

/-- 41_huffman.md R173: in that table the bits 1, 1, 0 are symbol 2. -/
theorem test_decode_symbol_example :
    ((buildTable [2, 1, 3, 3] 4 4).toOption.bind fun T => (decodeSymbol T [true, true, false]).toOption) = some (2, []) := by
  decide +kernel

/-- 42_inflate.md R214: HCLEN = 4 and the fields 0, 0, 0, 1 give symbol 0 the length 1. -/
theorem test_cl_len_example :
    (next? (exec (.clLen 1) { at_ .dynCl with clI := 3, hclen := 4 })).map (fun t => t.clLens.take 3) = some [1, 0, 0] := by
  decide

/-- 42_inflate.md R218: after the length 8, symbol 16 with extra 3. -/
theorem test_repeat_example :
    (next? (exec (.clRep16 3) { at_ .dynLens with lens := 8 :: List.replicate 319 0, lensN := 1, hlit := 257, hdist := 1 })).map
      (fun t => t.lens.take 8) = some [8, 8, 8, 8, 8, 8, 8, 0] := by
  decide +kernel

/-- 60_exceptions.md R420: START with IN_LEN = 0 is followed by FILE_TOO_SHORT, CLASS 1, CAUSE 0x10, ERR_OFFSET 0. -/
theorem test_start_too_short :
    ((next? (step { State.reset with host := [.writeReg 0 1] })).bind fun s => next? (step s)).map
      (fun t => (t.errInfo, t.errOffset, t.status)) = some (0x1001, 0, 6) := by
  decide +kernel

/-- 44_container.md R364: WIDTH = 16, CEL_X = 10, CEL_W = 7 leaves the canvas (CAUSE 0x18). -/
theorem test_cel_out_of_canvas :
    (next? (exec (.celCompressed 7 1) { at_ .cel with width := 16, height := 4, celX := 10, bpp := 1 })).map
      (fun t => t.errInfo) = some 0x1801 := by
  decide

/-- 44_container.md R375: the slice of the rule's example. -/
theorem test_slice_example :
    (next? (exec (.sliceKey 2 3 4 5) { at_ .slice with sliceLabel := [0x68, 0x69, 0x74] })).map (fun t => t.slices) =
    some [{ label := [0x68, 0x69, 0x74], x := 2, y := 3, w := 4, h := 5 }] := by
  decide

/-- A table word is placed where the next step runs it: the literal/length symbol 256 ends its block. -/
theorem test_fetch_word :
    decodeTableWord 16 256 = some .eob ∧
    (next? (step (State.reset.withFetchWord 16 256))).map (fun t => t.seq) = some .blkHdr := by
  decide +kernel

/-- A FLIP written before START reaches the load (70_reset_and_hazards.md R444). -/
theorem test_earlier_flip_write_takes_effect :
    ((next? (step { State.reset with host := [.writeReg 0 2, .writeReg 0 1] })).bind fun t => next? (step t)).map
      (fun t => (t.flipL, t.status)) = some (true, 1) := by decide

/-- A write of CTRL = 1 during a load is ignored (95_test_vectors.md S4). -/
theorem test_start_while_busy_ignored :
    (next? (step { at_ .symbols with ctrl := 2, host := [.writeReg 0 1] })).map (fun t => (t.ctrl, t.flipL, t.seq)) =
      some (2, false, .symbols) := by
  decide

/-! ## Decoding, the words written out from 30_encoding.md -/

/-- Bits written as digits, the first bit of the stream first. -/
def bits (l : List Nat) : Bits := l.map (· == 1)

/-- The word is read as the token, whole, and the token is written as the word. -/
def agrees (site : Site) (T : Table) (w : Bits) (i : Instr) : Bool :=
  decide ((decode site T w).toOption = some (i, [])) && decide (encode T i = w) && i.wf

/-- The container records (R102 to R108), byte by byte. The chunk bodies stand after their type (R104). -/
theorem test_decode_container :
    agrees .fileHdr Table.empty (bitsOfBytes ([0x90, 1, 0, 0, 0xE0, 0xA5, 2, 0, 16, 0, 9, 1, 8, 0] ++
      List.replicate 14 0 ++ [5] ++ List.replicate 99 0)) (.fileHdr 400 0xA5E0 2 16 265 8 5) = true ∧
    agrees .frameHdr Table.empty (bitsOfBytes [0x28, 0, 0, 1, 0xFA, 0xF1, 3, 0, 100, 1, 0, 0, 2, 0, 0, 4])
      (.frameHdr 0x01000028 0xF1FA 3 356 0x04000002) = true ∧
    agrees .chunkHdr Table.empty (bitsOfBytes [26, 1, 0, 0, 0x05, 0x20]) (.chunkHdr 282 0x2005) = true ∧
    agrees .chunkType Table.empty (bitsOfBytes ([0x19, 0x20, 4, 0, 0, 0, 1, 0, 0, 0, 3, 0, 0, 0] ++ List.replicate 8 0))
      (.chunkPalette 4 1 3) = true ∧
    agrees .chunkType Table.empty (bitsOfBytes ([0x05, 0x20, 0, 0, 0xFF, 0xFF, 2, 0] ++ List.replicate 10 0))
      (.chunkCel 0xFFFF 2) = true ∧
    agrees .chunkType Table.empty (bitsOfBytes ([0x18, 0x20, 1, 2] ++ List.replicate 8 0)) (.chunkTags 0x0201) = true ∧
    agrees .chunkType Table.empty (bitsOfBytes ([0x22, 0x20, 1, 0, 0, 0, 0, 0, 0, 0, 0, 0, 0, 0, 3, 0] ++
      [0x68, 0x69, 0x74])) (.chunkSlice 1 0 [0x68, 0x69, 0x74]) = true ∧
    agrees .chunkType Table.empty (bitsOfBytes [0x04, 0x20]) (.chunkOther 0x2004) = true ∧
    agrees .palEntry Table.empty (bitsOfBytes [2, 0, 10, 20, 30, 40]) (.palEntry 2 10 20 30 40) = true ∧
    agrees .palEntry Table.empty (bitsOfBytes [1, 0, 0, 0, 0, 0]) (.palEntryNamed 1) = true ∧
    agrees .celType Table.empty (bitsOfBytes [2, 0, 0, 0, 0, 0, 0, 0, 0, 7, 0, 0, 1]) (.celCompressed 7 256) = true ∧
    agrees .celType Table.empty (bitsOfBytes [0, 0]) (.celTypeOther 0) = true ∧
    agrees .tagRec Table.empty (bitsOfBytes ([1, 0, 3, 0] ++ List.replicate 13 0 ++ [4, 0, 0x77, 0x61, 0x6C, 0x6B]))
      (.tagRec 1 3 [0x77, 0x61, 0x6C, 0x6B]) = true ∧
    agrees .sliceKey Table.empty (bitsOfBytes [0, 0, 0, 0, 2, 0, 0, 0, 3, 0, 0, 0, 4, 0, 0, 0, 5, 0, 0, 0])
      (.sliceKey 2 3 4 5) = true := by
  decide +kernel

/-- The zlib envelope (R109, R110): `78 9C`, a dictionary id, and the trailer `00 62 00 62` of R305. -/
theorem test_decode_zlib :
    agrees .zlibHdr Table.empty (bitsOfBytes [0x78, 0x9C]) (.zlibHdr 0x78 0x9C) = true ∧
    (decode .zlibHdr Table.empty (bitsOfBytes [0x78, 0x9D])).toOption = none ∧
    agrees .dictId Table.empty (bitsOfBytes [1, 2, 3, 4]) (.zlibDictid 0x04030201) = true ∧
    agrees .trailer Table.empty (bitsOfBytes [0x01, 0x62, 0x00, 0x63]) (.adler32Trailer 0x01620063) = true := by
  decide +kernel

/-- The block tokens (R111 to R113): BFINAL first; DYN_HDR with the fields 29, 30, 15 of which R213 gives an example. -/
theorem test_decode_blocks :
    agrees .blkHdr Table.empty (bits [1, 0, 1]) (.blkHdr true 2) = true ∧
    agrees .blkType Table.empty (bits [0, 0]) .blkStored = true ∧
    agrees .blkType Table.empty (bits [1, 0]) .blkFixed = true ∧
    agrees .blkType Table.empty (bits [0, 1]) .blkDynamic = true ∧
    agrees .blkType Table.empty (bits [1, 1]) .blkReserved = true ∧
    agrees .storedHdr Table.empty (bitsOfBytes [3, 0, 0xFC, 0xFF]) (.storedHdr 3 0xFFFC) = true ∧
    agrees .dynHdr Table.empty (bits [1, 0, 1, 1, 1, 0, 1, 1, 1, 1, 1, 1, 1, 0]) (.dynHdr 29 30 7) = true ∧
    agrees .clLen Table.empty (bits [1, 1, 0]) (.clLen 3) = true := by
  decide +kernel

/-- The code-length symbols (R117) in a code of nineteen 5-bit codewords, so that symbol `s` has codeword `s` (R171). -/
theorem test_decode_code_lengths :
    ([
    ([0, 0, 0, 0, 0], .clLit0),
    ([0, 0, 0, 0, 1], .clLit1),
    ([0, 0, 0, 1, 0], .clLit2),
    ([0, 0, 0, 1, 1], .clLit3),
    ([0, 0, 1, 0, 0], .clLit4),
    ([0, 0, 1, 0, 1], .clLit5),
    ([0, 0, 1, 1, 0], .clLit6),
    ([0, 0, 1, 1, 1], .clLit7),
    ([0, 1, 0, 0, 0], .clLit8),
    ([0, 1, 0, 0, 1], .clLit9),
    ([0, 1, 0, 1, 0], .clLit10),
    ([0, 1, 0, 1, 1], .clLit11),
    ([0, 1, 1, 0, 0], .clLit12),
    ([0, 1, 1, 0, 1], .clLit13),
    ([0, 1, 1, 1, 0], .clLit14),
    ([0, 1, 1, 1, 1], .clLit15),
    ([1, 0, 0, 0, 0, 1, 0], .clRep16 1),
    ([1, 0, 0, 0, 1, 1, 1, 0], .clZero17 3),
    ([1, 0, 0, 1, 0, 1, 0, 0, 0, 0, 0, 1], .clZero18 65)] : List (List Nat × Instr)).all
      (fun p => agrees (.clSym false) plainClTable (bits p.1) p.2) = true := by
  decide +kernel

/-- The literal/length symbols (R115, R118) in the fixed code (R120). -/
theorem test_decode_literals_and_lengths :
    ([
    ([1, 0, 0, 1, 0, 0, 0, 1], .lit 0x61),
    ([0, 0, 1, 1, 0, 0, 0, 0], .lit 0),
    ([1, 1, 1, 0, 0, 1, 0, 0, 0], .lit 200),
    ([0, 0, 0, 0, 0, 0, 0], .eob),
    ([0, 0, 0, 0, 0, 0, 1], .len257),
    ([0, 0, 0, 0, 0, 1, 0], .len258),
    ([0, 0, 0, 0, 0, 1, 1], .len259),
    ([0, 0, 0, 0, 1, 0, 0], .len260),
    ([0, 0, 0, 0, 1, 0, 1], .len261),
    ([0, 0, 0, 0, 1, 1, 0], .len262),
    ([0, 0, 0, 0, 1, 1, 1], .len263),
    ([0, 0, 0, 1, 0, 0, 0], .len264),
    ([0, 0, 0, 1, 0, 0, 1, 1], .len265 1),
    ([0, 0, 0, 1, 0, 1, 0, 1], .len266 1),
    ([0, 0, 0, 1, 0, 1, 1, 1], .len267 1),
    ([0, 0, 0, 1, 1, 0, 0, 1], .len268 1),
    ([0, 0, 0, 1, 1, 0, 1, 1, 0], .len269 1),
    ([0, 0, 0, 1, 1, 1, 0, 1, 0], .len270 1),
    ([0, 0, 0, 1, 1, 1, 1, 1, 0], .len271 1),
    ([0, 0, 1, 0, 0, 0, 0, 1, 0], .len272 1),
    ([0, 0, 1, 0, 0, 0, 1, 1, 1, 0], .len273 3),
    ([0, 0, 1, 0, 0, 1, 0, 1, 1, 0], .len274 3),
    ([0, 0, 1, 0, 0, 1, 1, 1, 1, 0], .len275 3),
    ([0, 0, 1, 0, 1, 0, 0, 1, 1, 0], .len276 3),
    ([0, 0, 1, 0, 1, 0, 1, 1, 0, 1, 0], .len277 5),
    ([0, 0, 1, 0, 1, 1, 0, 1, 0, 1, 0], .len278 5),
    ([0, 0, 1, 0, 1, 1, 1, 1, 0, 1, 0], .len279 5),
    ([1, 1, 0, 0, 0, 0, 0, 0, 1, 0, 1, 0], .len280 5),
    ([1, 1, 0, 0, 0, 0, 0, 1, 1, 0, 0, 1, 0], .len281 9),
    ([1, 1, 0, 0, 0, 0, 1, 0, 1, 0, 0, 1, 0], .len282 9),
    ([1, 1, 0, 0, 0, 0, 1, 1, 1, 0, 0, 1, 0], .len283 9),
    ([1, 1, 0, 0, 0, 1, 0, 0, 1, 0, 0, 1, 0], .len284 9),
    ([1, 1, 0, 0, 0, 1, 0, 1], .len285),
    ([1, 1, 0, 0, 0, 1, 1, 0], .lenInvalid 286),
    ([1, 1, 0, 0, 0, 1, 1, 1], .lenInvalid 287)] : List (List Nat × Instr)).all
      (fun p => agrees .litSym fixedLitTable (bits p.1) p.2) = true := by
  decide +kernel

/-- The distance symbols (R116, R119) in the fixed code (R120). -/
theorem test_decode_distances :
    ([
    ([0, 0, 0, 0, 0], .dist0),
    ([0, 0, 0, 0, 1], .dist1),
    ([0, 0, 0, 1, 0], .dist2),
    ([0, 0, 0, 1, 1], .dist3),
    ([0, 0, 1, 0, 0, 1], .dist4 1),
    ([0, 0, 1, 0, 1, 1], .dist5 1),
    ([0, 0, 1, 1, 0, 1, 0], .dist6 1),
    ([0, 0, 1, 1, 1, 1, 0], .dist7 1),
    ([0, 1, 0, 0, 0, 1, 1, 0], .dist8 3),
    ([0, 1, 0, 0, 1, 1, 1, 0], .dist9 3),
    ([0, 1, 0, 1, 0, 1, 0, 1, 0], .dist10 5),
    ([0, 1, 0, 1, 1, 1, 0, 1, 0], .dist11 5),
    ([0, 1, 1, 0, 0, 1, 0, 0, 1, 0], .dist12 9),
    ([0, 1, 1, 0, 1, 1, 0, 0, 1, 0], .dist13 9),
    ([0, 1, 1, 1, 0, 1, 0, 0, 0, 1, 0], .dist14 17),
    ([0, 1, 1, 1, 1, 1, 0, 0, 0, 1, 0], .dist15 17),
    ([1, 0, 0, 0, 0, 1, 0, 0, 0, 0, 1, 0], .dist16 33),
    ([1, 0, 0, 0, 1, 1, 0, 0, 0, 0, 1, 0], .dist17 33),
    ([1, 0, 0, 1, 0, 1, 0, 0, 0, 0, 0, 1, 0], .dist18 65),
    ([1, 0, 0, 1, 1, 1, 0, 0, 0, 0, 0, 1, 0], .dist19 65),
    ([1, 0, 1, 0, 0, 1, 0, 0, 0, 0, 0, 0, 1, 0], .dist20 129),
    ([1, 0, 1, 0, 1, 1, 0, 0, 0, 0, 0, 0, 1, 0], .dist21 129),
    ([1, 0, 1, 1, 0, 1, 0, 0, 0, 0, 0, 0, 0, 1, 0], .dist22 257),
    ([1, 0, 1, 1, 1, 1, 0, 0, 0, 0, 0, 0, 0, 1, 0], .dist23 257),
    ([1, 1, 0, 0, 0, 1, 0, 0, 0, 0, 0, 0, 0, 0, 1, 0], .dist24 513),
    ([1, 1, 0, 0, 1, 1, 0, 0, 0, 0, 0, 0, 0, 0, 1, 0], .dist25 513),
    ([1, 1, 0, 1, 0, 1, 0, 0, 0, 0, 0, 0, 0, 0, 0, 1, 0], .dist26 1025),
    ([1, 1, 0, 1, 1, 1, 0, 0, 0, 0, 0, 0, 0, 0, 0, 1, 0], .dist27 1025),
    ([1, 1, 1, 0, 0, 1, 0, 0, 0, 0, 0, 0, 0, 0, 0, 0, 1, 0], .dist28 2049),
    ([1, 1, 1, 0, 1, 1, 0, 0, 0, 0, 0, 0, 0, 0, 0, 0, 1, 0], .dist29 2049),
    ([1, 1, 1, 1, 0], .distInvalid 30),
    ([1, 1, 1, 1, 1], .distInvalid 31)] : List (List Nat × Instr)).all
      (fun p => agrees .distSym fixedDistTable (bits p.1) p.2) = true := by
  decide +kernel

/-- START (10_state.md R38): bit 0, with FLIP in bit 1. -/
theorem test_decode_start :
    agrees .ctrl Table.empty (bits (1 :: 1 :: List.replicate 62 0)) (.start true) = true ∧
    (decode .ctrl Table.empty (bits (0 :: 1 :: List.replicate 62 0))).toOption = none := by
  decide +kernel

/-- Symbol 16 as the first length leaves its extra bits unread (42_inflate.md R218). -/
theorem test_decode_first_repeat :
    (decode (.clSym true) plainClTable (bits [1, 0, 0, 0, 0, 1, 0])).toOption = some (.clRep16 0, bits [1, 0]) := by
  decide +kernel

/-! ## Witnesses: states that meet the hypotheses of the statements -/

/-- The canonical forms of a small state, by evaluation. -/
def formOk (s : State) : Bool :=
  Memory.wf none s.inp && Memory.wf none s.tile && Memory.wf (some 0) s.atlas && Memory.wf (some 0) s.pal

theorem memoryForm_of {s : State} (h : formOk s = true) : MemoryForm s := by
  simp only [formOk, Bool.and_eq_true] at h
  exact ⟨h.1.1.1, h.1.1.2, h.1.2, h.2⟩

/-- A running load's host registers agree. -/
theorem hostForm_running {s : State} (hs : s.status = 1) (hc : s.ctrl = 0) (hn : NoReport s) (hi : s.seq ≠ .idle)
    (he : s.seq ≠ .error) (hl : s.inLen = 0) : HostForm s := by
  refine ⟨.inl hc, .inr (.inl hs), ?_, he, by rw [hl]; decide, ?_, fun _ => hn, ?_, ?_⟩
  · have hb : busy s = true := by unfold busy; rw [hs]; decide
    simp [hi, hb]
  · intro h; rw [hs] at h; exact absurd h (by decide)
  · intro h; rw [hs] at h; exact absurd h (by decide)
  · intro h; rw [hs] at h; exact absurd h (by decide)

theorem hostForm_reset : HostForm State.reset :=
  ⟨.inl rfl, .inl rfl, by decide, by decide, by decide, fun _ => ⟨⟨rfl, rfl, rfl⟩, rfl, rfl, rfl, rfl, rfl, rfl⟩,
    fun h => absurd h (by decide), fun h => absurd h (by decide), fun h => absurd h (by decide)⟩

theorem registersFit_reset : RegistersFit State.reset := by
  constructor <;> first | decide +kernel | exact ⟨.inl rfl, .inl rfl, .inl rfl⟩

/-- A load at the placement of a one-pixel cel. -/
def placing : State :=
  { at_ .blit with
    width := 1, height := 1, nframes := 1, bpp := 1, celW := 1, celH := 1, tile := [(0, 7)], outPos := 1, outCap := 1
    atlasLen := 1, dur := [0], adlerA := 1 }

theorem atlasForm_placing : AtlasForm placing := by
  refine ⟨fun a => ?_, fun a b h => ?_, fun _ => rfl, fun _ => .inl rfl, fun _ => ⟨by decide, rfl⟩,
    fun _ => ⟨by decide, by decide⟩, fun _ => ⟨by decide, by decide⟩, fun _ => rfl, fun _ => rfl⟩
  · have : placing.tile = [(0, 7)] := rfl
    have ho : placing.outPos = 1 := rfl
    rw [this, ho]
    simp only [Memory.find]
    constructor
    · rintro ⟨b, hb⟩; split at hb
      · rename_i h; exact h ▸ Nat.one_pos
      · cases hb
    · intro h; exact ⟨7, if_pos (show (0 : Nat) = a by omega)⟩
  · cases h

theorem registersFit_placing : RegistersFit placing := by
  constructor <;> first | decide +kernel | exact ⟨.inl rfl, .inl rfl, .inl rfl⟩

theorem atlasForm_reset : AtlasForm State.reset := by
  refine ⟨fun a => ?_, fun _ _ h => absurd h (fun h => nomatch h), ?_, ?_, ?_, ?_, ?_, ?_, ?_⟩
  · have : State.reset.tile = [] := rfl
    have ho : State.reset.outPos = 0 := rfl
    rw [this, ho]; simp [Memory.find]
  all_goals (intro h; exact absurd h (by decide))

theorem witness_ResetLeavesTheTable :
    (State.reset.seq = .idle ∧ State.reset.host = []) ∧ { at_ .symbols with host := [.reset] }.host = [.reset] := by
  decide

theorem witness_StartBeginsLoad :
    busy State.reset = false ∧ busy (at_ .symbols) = true ∧
    ({ State.reset with host := [.writeReg 0 2, .writeReg 0 1] }.host = [.writeReg 0 2, .writeReg 0 1] ∧
      busy { State.reset with host := [.writeReg 0 2, .writeReg 0 1] } = false) ∧ (3 : Reg).getLsbD 0 = true ∧
    ({ State.reset with host := [.writeReg 0 1] }.host = [.writeReg 0 1] ∧ (1 : Reg).getLsbD 0 = true ∧
      busy { State.reset with host := [.writeReg 0 1] } = false ∧ State.reset.inLen = 0) := by
  decide

theorem witness_HostRegisterWrites :
    ({ State.reset with host := [.writeReg 0 2] }.host = [.writeReg 0 2] ∧ (2 : Reg).getLsbD 0 = false) ∧
    ({ at_ .symbols with host := [.writeReg 4 1] }.host = [.writeReg 4 1] ∧ busy (at_ .symbols) = true) ∧
    ({ State.reset with host := [.writeReg 4 (2 ^ 32)] }.host = [.writeReg 4 (2 ^ 32)] ∧ busy State.reset = false) ∧
    ({ State.reset with host := [.writeReg 15 1] }.host = [.writeReg 15 1] ∧ (15 : Nat) ≠ 0 ∧ (15 : Nat) ≠ 4) := by
  decide

theorem witness_HostRegisterReads :
    { State.reset with host := [.readReg 14] }.host = [.readReg 14] ∧ HostForm (at_ .symbols) ∧
    busy (at_ .symbols) = true ∧ { at_ .symbols with host := [.readPal 0] }.host = [.readPal 0] := by
  exact ⟨rfl, hostForm_running rfl rfl ⟨rfl, rfl, rfl⟩ (by decide) (by decide) rfl, by decide, rfl⟩

theorem witness_HostAccessDuringLoad :
    ∀ op ∈ [HostOp.writeIn 0 1, .readAtlas 0, .readPal 0, .readDur 0, .readTag 0, .readSlice 0, .writeReg 4 9,
      .writeReg 0 3, .readReg 1],
      { at_ .symbols with host := [op] }.host = [op] ∧ busy { at_ .symbols with host := [op] } = true := by
  decide

/-- An idle block that holds one entry of every list. -/
def holding : State :=
  { State.reset with
    atlas := [(0, 9)], atlasLen := 1, dur := [7], tags := [{ label := [], first := 0, last := 1 }]
    slices := [{ label := [], x := 0, y := 0, w := 1, h := 1 }] }

theorem witness_HostAccessWhenIdle :
    MemoryForm holding ∧ busy holding = false ∧ 2 ^ 32 - 2 < 2 ^ 32 - 1 ∧ 2 ^ 32 - 1 ≤ 2 ^ 32 - 1 ∧
    0 < holding.atlasLen ∧ (255 < 256 ∧ 3 < 4) ∧ holding.dur[0]? = some 7 ∧
    holding.tags[0]? = some { label := [], first := 0, last := 1 } ∧
    holding.slices[0]? = some { label := [], x := 0, y := 0, w := 1, h := 1 } ∧ holding.atlasLen ≤ 1 ∧ 1024 ≤ 1024 ∧
    holding.dur.length ≤ 1 ∧ holding.tags.length ≤ 1 ∧ holding.slices.length ≤ 1 := by
  exact ⟨memoryForm_of (by decide), by decide⟩

theorem witness_FileHeaderCompletes :
    ∀ p ∈ [((8 : Half), 1), (32, 4)],
      (0xA5E0 : Half) = State.reset.cfg.fileMagic ∧ 128 ≤ (128 : Word).toNat ∧ (128 : Word).toNat ≤ (128 : Reg).toNat ∧
        (p.1 = 8 ∧ p.2 = 1 ∨ p.1 = 32 ∧ p.2 = 4) ∧
        ({ State.reset with cfg := { Config.default with atlasCapacity := some p.2 } }.cfg.atlasCapacity = some p.2) := by
  decide

theorem witness_FileHeaderFailures :
    (0 : Half) ≠ State.reset.cfg.fileMagic ∧ ((127 : Word).toNat < 128 ∨ (0 : Reg).toNat < (127 : Word).toNat) ∧
    ((16 : Half) ≠ 8 ∧ (16 : Half) ≠ 32 ∧ 128 ≤ (128 : Word).toNat ∧ (128 : Word).toNat ≤ (128 : Reg).toNat) ∧
    ({ State.reset with cfg := { Config.default with atlasCapacity := some 0 } }.cfg.atlasCapacity = some 0 ∧
      0 < (1 : Half).toNat * (1 : Half).toNat * (1 : Half).toNat * 1) := by
  decide

theorem witness_FrameHeader :
    (16 ≤ (16 : Word).toNat ∧ 128 + (16 : Word).toNat ≤ { at_ .frameHdr with cur := 128, fileSize := 144 }.fileSize) ∧
    (0 : Half) ≠ 0xF1FA ∧ (15 : Word).toNat < 16 ∧ { at_ .frameHdr with fileSize := 143 }.fileSize < 128 + (16 : Word).toNat := by
  decide

theorem witness_ChunkHeader :
    (6 ≤ (6 : Word).toNat ∧ 144 + (6 : Word).toNat ≤ { at_ .chunkHdr with cur := 144, frameEnd := 150 }.frameEnd) ∧
    (5 : Word).toNat < 6 ∧ { at_ .chunkHdr with frameEnd := 149 }.frameEnd < 144 + (6 : Word).toNat := by
  decide

theorem witness_PaletteChunk :
    ((256 : Word).toNat ≤ 256 ∧ (255 : Word).toNat < 256 ∧ (255 : Word).toNat ≤ (255 : Word).toNat) ∧
    256 < (257 : Word).toNat ∧ 256 ≤ (256 : Word).toNat ∧ (0 : Word).toNat < (1 : Word).toNat := by
  decide

/-- A palette loop at its only entry, with the given first flag byte. -/
def atEntry (flag : Byte) : State := { at_ .palette with chunkEnd := 6, inp := [(0, flag)] }

theorem witness_PaletteEntries :
    MemoryForm (atEntry 2) ∧ (atEntry 1).host = [] ∧ (atEntry 1).seq = .palette ∧
    (atEntry 1).palK ≤ (atEntry 1).palLast ∧ (atEntry 1).q + 6 ≤ (atEntry 1).chunkEnd ∧
    (inByte (atEntry 1) 0).getLsbD 0 = true ∧ (inByte (atEntry 2) 0).getLsbD 0 = false :=
  ⟨memoryForm_of (by decide), rfl, rfl, le_rfl, le_rfl, rfl, rfl⟩

theorem witness_CelTokens :
    (0 ≤ (0x7FFF : Half).toInt) ∧ ((0xFFFF : Half).toInt < 0) ∧
    ({ State.reset with cfg := { Config.default with tileCapacity := some 1 } }.cfg.tileCapacity = some 1 ∧
      (1 : Half).toNat * (1 : Half).toNat * 1 ≤ 1 ∧ (0 : Int) + (1 : Half).toNat ≤ (1 : Nat)) ∧
    ({ State.reset with cfg := { Config.default with tileCapacity := some 0 } }.cfg.tileCapacity = some 0 ∧
      0 < (1 : Half).toNat * (1 : Half).toNat * 1) ∧
    (((1 : Nat) : Int) < 1 + (1 : Half).toNat) := by
  decide

theorem witness_TagAndSliceTokens : (1 : Word) ≠ 0 ∧ (2 : Word) ≠ 0 := by decide

theorem witness_SkippedChunk :
    { at_ .chunkHdr .tail with ctype := 0x2004 }.host = [] ∧ { at_ .chunkHdr .tail with ctype := 0x2004 }.seq = .chunkHdr ∧
    { at_ .chunkHdr .tail with ctype := 0x2004 }.phase = .tail ∧
    (0x2004 : Half) ≠ 0x2019 ∧ (0x2004 : Half) ≠ 0x2005 ∧ (0x2004 : Half) ≠ 0x2018 ∧ (0x2004 : Half) ≠ 0x2022 := by
  decide

theorem witness_LoopEnds :
    { at_ .palette with palK := 1 }.palLast < { at_ .palette with palK := 1 }.palK ∧
    (at_ .tags).tagN ≤ (at_ .tags).tagI ∧ (at_ .chunkHdr).chunksLeft = 0 ∧
    { at_ .frameEndCheck with cur := 1 }.cur ≠ { at_ .frameEndCheck with cur := 1 }.frameEnd ∧
    ((at_ .frameEndCheck).cur = (at_ .frameEndCheck).frameEnd ∧
      (at_ .frameEndCheck).frameIdx + 1 < { at_ .frameEndCheck with nframes := 2 }.nframes) ∧
    { at_ .frameEndCheck with nframes := 1 }.nframes ≤ (at_ .frameEndCheck).frameIdx + 1 := by
  decide

/-- Zero bytes of IN from address 0 on. -/
def zeros (n : Nat) : Memory := (List.range n).map fun a => (a, 0)

theorem witness_ContainerLayouts :
    128 ≤ { at_ .fileHdr with inLen := 128 }.inLen.toNat ∧
    { at_ .frameHdr with cur := 128, fileSize := 144 }.cur + 16 ≤ 144 ∧
    (0 < { at_ .chunkHdr with chunksLeft := 1, frameEnd := 6 }.chunksLeft ∧ (at_ .chunkHdr).cur + 6 ≤ 6) ∧
    (∀ p ∈ [((0x2019 : Half), 26), (0x2005, 22), (0x2018, 16), (0x2022, 20)],
      { at_ .chunkHdr .tail with ctype := p.1, chunkEnd := p.2 }.chunkStart + p.2 ≤ p.2) ∧
    (u32le { at_ .chunkHdr .tail with inp := zeros 20 } 10 = 0 ∧
      0 + 20 + u16le { at_ .chunkHdr .tail with inp := zeros 20 } 18 ≤ 20) ∧
    (u32le { at_ .chunkHdr .tail with inp := zeros 10 ++ [(10, 1), (11, 0), (12, 0), (13, 0)] } 10 ≠ 0 ∧
      0 + 20 ≤ { at_ .chunkHdr .tail with ctype := 0x2022, chunkEnd := 20 }.chunkEnd) ∧
    u16le { at_ .cel with inp := [(13, 2), (14, 0)] } 13 = 2 ∧ u16le { at_ .cel with inp := [(13, 0), (14, 0)] } 13 ≠ 2 ∧
    ({ at_ .tags with tagN := 1 }.tagI < 1 ∧ 0 + 19 + u16le { at_ .tags with inp := zeros 19 } 17 ≤ 19) ∧
    (at_ .slice).q + 20 ≤ 20 :=
  ⟨by decide, by decide, by decide, by decide, ⟨rfl, by decide⟩, ⟨by decide, by decide⟩, rfl, by decide,
    ⟨by decide, by decide⟩, by decide⟩

theorem witness_StreamLayouts :
    32 ≤ avail { at_ .zHdr .tail with brEnd := 4 } ∧ 3 ≤ avail { at_ .blkHdr with brEnd := 1, brPos := 5 } ∧
    32 ≤ avail { at_ .stored with brEnd := 5, brPos := alignUp 3 } ∧ 14 ≤ avail { at_ .dynHdr with brEnd := 2, brPos := 2 } ∧
    ({ at_ .dynCl with hclen := 4 }.clI < 4 ∧ 3 ≤ avail { at_ .dynCl with brEnd := 1 }) ∧
    (alignUp 1 = 8 * 1 ∧ 32 ≤ avail { at_ .trailer with brEnd := 5, brPos := 8 * 1 }) := by
  decide

theorem witness_ShortInputFails :
    { at_ .fileHdr with inLen := 127 }.inLen.toNat < 128 ∧ { at_ .frameHdr with fileSize := 15 }.fileSize < 0 + 16 ∧
    { at_ .chunkHdr with chunksLeft := 1, frameEnd := 5 }.frameEnd < 0 + 6 ∧
    (25 < 0 + 26 ∧ 21 < 0 + 22 ∧ 15 < 0 + 16 ∧ 19 < 0 + 20) ∧
    (u32le { at_ .chunkHdr .tail with inp := zeros 18 ++ [(18, 1), (19, 0)] } 10 = 0 ∧
      20 < 0 + 20 + u16le { at_ .chunkHdr .tail with inp := zeros 18 ++ [(18, 1), (19, 0)] } 18) ∧
    { at_ .palette with chunkEnd := 5 }.chunkEnd < 0 + 6 ∧ u16le { at_ .cel with inp := [(13, 2), (14, 0)] } 13 = 2 ∧
    18 < 0 + 19 + u16le { at_ .tags with inp := zeros 19 } 17 ∧ { at_ .slice with chunkEnd := 19 }.chunkEnd < 0 + 20 ∧
    (avail { at_ .zHdr .tail with brEnd := 4, brPos := 1 } < 32 ∧ avail { at_ .blkHdr with brEnd := 1, brPos := 6 } < 3 ∧
      avail (byteAlign { at_ .stored with brEnd := 4, brPos := 1 }) < 32 ∧ avail { at_ .dynHdr with brEnd := 2, brPos := 3 } < 14 ∧
      avail { at_ .dynCl with brEnd := 1, brPos := 6 } < 3 ∧ avail (byteAlign { at_ .trailer with brEnd := 4, brPos := 1 }) < 32) :=
  ⟨by decide, by decide, by decide, by decide, ⟨rfl, by decide⟩, by decide, rfl, by decide, by decide, by decide⟩

theorem witness_ZlibHeaderTest :
    ((at_ .zHdr).brPos = 0 ∧ (at_ .zHdr).brStart + 2 ≤ { at_ .zHdr with brEnd := 2 }.brEnd ∧
      inByte { at_ .zHdr with inp := [(0, 0x78), (1, 0x9C)] } 0 = 0x78 ∧
      ((0x78 : Byte).toNat * 256 + (0x9C : Byte).toNat) % 31 = 0 ∧ (0x78 : Byte).toNat / 16 ≤ 7) ∧
    { at_ .zHdr with brEnd := 1 }.brEnd < 0 + 2 ∧ ((0x78 : Byte).toNat * 256 + (0x9D : Byte).toNat) % 31 ≠ 0 ∧
    7 < (0x88 : Byte).toNat / 16 :=
  ⟨⟨rfl, by decide, rfl, by decide, by decide⟩, by decide⟩

theorem witness_ZlibTokens :
    (0xBB : Byte).getLsbD 5 = true ∧ (0x9C : Byte).getLsbD 5 = false ∧
    ((1 : Word).toNat = { at_ .trailer with adlerA := 1 }.adlerB * 65536 + 1 ∧ (at_ .trailer).outPos = (at_ .trailer).outCap) ∧
    (2 : Word).toNat ≠ (at_ .trailer).adlerB * 65536 + 1 ∧ (at_ .trailer).outPos ≠ { at_ .trailer with outCap := 1 }.outCap := by
  decide

theorem witness_StoredBlock :
    ((0xFFFF : Half).toNat = 0xFFFF - (0 : Half).toNat ∧ (0 : Half).toNat ≤ (at_ .stored).outCap - 0 ∧
      8 * (0 : Half).toNat ≤ avail (at_ .stored) ∧ (at_ .stored).brPos % 8 = 0) ∧
    ((0xFFFE : Half).toNat = 0xFFFF - (1 : Half).toNat ∧ (1 : Half).toNat ≤ { at_ .stored with outCap := 1 }.outCap - 0 ∧
      8 * (1 : Half).toNat ≤ avail { at_ .stored with brEnd := 1 }) ∧
    (0 : Half).toNat ≠ 0xFFFF - (0 : Half).toNat ∧ (at_ .stored).outCap - 0 < (1 : Half).toNat ∧
    avail (at_ .stored) < 8 * (1 : Half).toNat := by
  decide

theorem witness_CodeLengthSymbols :
    codeLengthOf .clLit15 = some 15 ∧
    ({ at_ .dynLens with lensN := 317, hlit := 288, hdist := 32 }.lensN + 3 ≤ 288 + 32 ∧ 288 + 32 ≤ (at_ .dynLens).lens.length) ∧
    288 + 32 < { at_ .dynLens with lensN := 318 }.lensN + 3 ∧ (at_ .dynLens).lensN = 0 := by
  decide +kernel

theorem witness_TableBuilds :
    (at_ .fixedSetup).seq = .fixedSetup ∧ { at_ .dynCl with hclen := 4, clI := 4 }.hclen ≤ 4 ∧
    (buildTable (List.replicate 19 0) 19 19).toOption.isSome = true ∧
    (buildTable (List.replicate 19 1) 19 19).toOption = none ∧
    { at_ .dynLens with hlit := 257, hdist := 1, lensN := 258 }.hlit + 1 ≤ 258 ∧
    (buildTable ((List.replicate 320 0).take 257) 257 288).toOption.isSome = true ∧
    (buildTable ((List.replicate 320 1).take 257) 257 288).toOption = none ∧
    (buildTable ((List.replicate 257 0 ++ [1, 1, 1]).drop 257) 3 32).toOption = none := by
  decide +kernel

theorem witness_LiteralAndEob :
    (at_ .symbols).outPos < { at_ .symbols with outCap := 1 }.outCap ∧ (at_ .symbols).outCap ≤ (at_ .symbols).outPos := by
  decide

theorem witness_LengthSymbols : lengthOf .len257 = some 3 ∧ lengthOf (.len284 31) = some 258 := by decide

theorem witness_MatchCopies :
    distanceOf .dist0 = some 1 ∧ distanceOf (.dist29 8191) = some 32768 ∧
    (1 ≤ { at_ .symbols .tail with outPos := 1 }.outPos ∧
      { at_ .symbols .tail with matchLen := 3 }.matchLen ≤ { at_ .symbols .tail with outCap := 4 }.outCap - 1) := by
  decide

theorem witness_MatchChecks :
    distanceOf .dist1 = some 2 ∧ { at_ .symbols .tail with outPos := 1 }.outPos < 2 ∧
    { at_ .symbols .tail with outCap := 4 }.outCap - 2 < { at_ .symbols .tail with matchLen := 3 }.matchLen := by
  decide

theorem witness_InvalidSymbols :
    (decodeSymbol fixedLitTable (bits [1, 1, 0, 0, 0, 1, 1, 0])).toOption = some (286, []) ∧
    (decodeSymbol fixedDistTable (bits [1, 1, 1, 1, 0, 1])).toOption = some (30, [true]) := by
  decide +kernel

theorem witness_OutputRun : ([1, 2] : List Byte)[1]? = some 2 ∧ 0 + ([1, 2] : List Byte).length ≤ 2 := by decide

theorem witness_AdlerClosedForm : { at_ .symbols with adlerA := 1 }.adlerA = 1 ∧ (at_ .symbols).adlerB = 0 := by decide

theorem witness_BitReaderOperations :
    avail { at_ .symbols with brEnd := 1 } < 9 ∧ 8 ≤ avail { at_ .symbols with brEnd := 1 } ∧ (at_ .symbols).brPos = 8 * 0 := by
  decide

theorem witness_PrepareTable :
    (3 : Nat) < 4 ∧ (∃ k < 1, 16 ≤ ([16] : List Nat).getD k 0) ∧ (∀ k < 2, ([15, 1] : List Nat).getD k 0 < 16) := by
  decide

theorem witness_CanonicalCodes :
    (buildTable [2, 1, 3, 3] 4 4).toOption.map
      (fun T => decide (0 < T.countAt 3 ∧ 0 < T.lenAt 2 ∧ T.lenAt 2 = T.lenAt 3 ∧ T.lenAt 1 < T.lenAt 0)) = some true := by
  decide +kernel

theorem witness_Oversubscription :
    (prepareTable [1, 1, 1] 3 3).toOption.map
      (fun T => decide (2 ^ 15 < ∑ l ∈ Finset.range 15, T.countAt (l + 1) * 2 ^ (14 - l))) = some true ∧
    (prepareTable [1, 1] 2 2).toOption.map
      (fun T => decide (∑ l ∈ Finset.range 15, T.countAt (l + 1) * 2 ^ (14 - l) ≤ 2 ^ 15)) = some true := by
  decide +kernel

theorem witness_PrefixProperty :
    (buildTable [2, 1, 3, 3] 4 4).toOption.map (fun T => decide (0 < T.lenAt 0 ∧ 0 < T.lenAt 1 ∧ 0 < T.lenAt 2 ∧ 0 < T.lenAt 3)) = some true := by
  decide +kernel

theorem witness_FastPathAgrees : (buildTable [2, 1, 0, 3] 4 4).toOption.isSome = true ∧ 15 ≤ 15 ∧ 0 ≤ 15 := by
  decide +kernel

theorem witness_DecodeErrors :
    (decodeSymbol fixedDistTable (bits [0, 0, 0, 0, 1])).toOption = some (1, []) ∧
    (decodeSymbol Table.empty (List.replicate 15 true)).toOption = none ∧ (∀ v ∈ List.replicate 4 0, v = 0) := by
  decide +kernel

theorem witness_CelPlacement :
    MemoryForm placing ∧ AtlasForm placing ∧ placing.host = [] ∧ placing.seq = .blit ∧ InRectangle placing 0 0 0 ∧
    (∀ row c, ¬ InRectangle placing 1 row c) := by
  refine ⟨memoryForm_of (by decide), atlasForm_placing, rfl, rfl, ⟨by decide, by decide, by decide⟩, ?_⟩
  rintro row c ⟨hr, hc, ha⟩
  have h1 : placing.celH = 1 := rfl
  have h2 : placing.celW * placing.bpp = 1 := rfl
  have h3 : placing.celY.toNat = 0 := rfl
  have h4 : (placing.frameIdx * placing.width + placing.celX.toNat) * placing.bpp = 0 := rfl
  rw [h1] at hr; rw [h2] at hc; rw [h3, h4] at ha
  have : row = 0 := by omega
  subst this; omega

theorem witness_VerticalFlip :
    MemoryForm { at_ .flip with height := 2, width := 1, nframes := 1, bpp := 1, atlas := [(0, 1), (1, 2)] } ∧
    (at_ .flip).host = [] ∧ (at_ .flip).seq = .flip ∧ 1 < { at_ .flip with height := 2 }.height ∧
    0 < stride { at_ .flip with width := 1, nframes := 1, bpp := 1 } ∧ (at_ .flip).height ≤ 1 :=
  ⟨memoryForm_of (by decide), by decide⟩

theorem witness_Publication : (at_ .done).host = [] ∧ (at_ .done).seq = .done := by decide

theorem witness_DecodeEncode :
    Instr.wf (.len284 31) = true ∧ symbolOf (.len284 31) = some 284 ∧ 0 < fixedLitTable.lenAt 284 ∧
    (buildTable fixedLitLengths 288 288).toOption = some fixedLitTable ∧ Instr.wf (.palEntry 2 0 0 0 0) = true ∧
    symbolOf (.palEntry 2 0 0 0 0) = none := by
  decide +kernel

theorem witness_DecodeGivesWellFormed :
    (decode .litSym fixedLitTable (bits [1, 1, 0, 0, 0, 1, 1, 0])).toOption = some (.lenInvalid 286, []) ∧
    (∀ sym ∈ fixedLitTable.sorted, sym < alphabetSize .litSym) ∧ (∀ sym ∈ Table.empty.sorted, sym < alphabetSize .zlibHdr) := by
  decide +kernel

theorem witness_StepRunsDecoded :
    (at_ .blkHdr .tail).host = [] ∧ nextSite (at_ .blkHdr .tail) = some .blkType ∧
    (decode .blkType Table.empty (bitsOf 2 0)).toOption = some (.blkStored, []) ∧
    (nextSite (at_ .blkHdr) = some .blkHdr ∧ (decode .blkHdr Table.empty []).toOption = none) ∧
    { at_ .symbols with host := [.wait] }.host = [.wait] ∧
    ({ at_ .symbols with host := [.readReg 1] }.host = [.readReg 1] ∧ HostOp.readReg 1 ≠ .wait) := by
  decide

theorem witness_EngineAlwaysSteps : State.reset.host = [] ∧ RegistersFit State.reset := ⟨rfl, registersFit_reset⟩

/-- A host about to write a byte of IN, and one about to write START. -/
theorem witness_MemoryFormKept :
    MemoryForm { State.reset with host := [.writeIn 5 7] } ∧
    ∃ t, step { State.reset with host := [.writeIn 5 7] } = .next t ∧ t.inp = [(5, 7)] :=
  ⟨memoryForm_of (by decide), _, rfl, rfl⟩

theorem witness_HostFormKept :
    HostForm (at_ .done) ∧ ∃ t, step (at_ .done) = .next t ∧ t.status = 2 :=
  ⟨hostForm_running rfl rfl ⟨rfl, rfl, rfl⟩ (by decide) (by decide) rfl, _, rfl, rfl⟩

theorem witness_RegistersFitKept :
    RegistersFit placing ∧ inFrame placing.seq = true ∧ ∃ t, step placing = .next t ∧ inFrame t.seq = true :=
  ⟨registersFit_placing, rfl, _, rfl, rfl⟩

theorem witness_AtlasFormKept :
    MemoryForm placing ∧ HostForm placing ∧ RegistersFit placing ∧ AtlasForm placing ∧
    ∃ t, step placing = .next t ∧ t.atlas = [(0, 7)] :=
  ⟨memoryForm_of (by decide), hostForm_running rfl rfl ⟨rfl, rfl, rfl⟩ (by decide) (by decide) rfl, registersFit_placing,
    atlasForm_placing, _, rfl, rfl⟩

theorem witness_TileDrawUnused : AtlasForm placing ∧ ∃ t, step placing = .next t := ⟨atlasForm_placing, _, rfl⟩

theorem witness_LoadTerminates :
    (∀ op ∈ { placing with host := [.wait, .readReg 1, .writeReg 0 2] }.host,
      op = .wait ∨ (∃ k, op = .readReg k) ∨ ∃ k v, op = .writeReg k v) ∧
    HostForm { placing with host := [.wait, .readReg 1, .writeReg 0 2] } ∧
    busy { placing with host := [.wait, .readReg 1, .writeReg 0 2] } = true :=
  ⟨by simp, hostForm_running rfl rfl ⟨rfl, rfl, rfl⟩ (by decide) (by decide) rfl, by decide⟩

theorem witness_LoadIsFunctionOfInput :
    HostForm State.reset ∧ RegistersFit State.reset ∧ busy State.reset = false ∧ State.reset.host = [] ∧
    SameInput State.reset { State.reset with inEpoch := 1, cur := 5 } :=
  ⟨hostForm_reset, registersFit_reset, by decide, rfl, rfl, rfl, rfl, fun a h => absurd h (Nat.not_lt_zero a)⟩

/-- A symbol place before the given bytes, the reader `from_` bits into them. -/
def symbolsAt (s : State) (bytes : List Byte) (from_ : Nat := 0) : State :=
  { s with
    inp := bytes.zipIdx.map fun p => (p.2, p.1), brEnd := bytes.length, brPos := from_
    clTab := plainClTable, litTab := fixedLitTable, distTab := fixedDistTable, hlit := 257, hdist := 1 }

/-- The symbol at the reader's position, and the bits after it. -/
def symbolAt (T : Table) (s : State) : Option (Nat × Bits) := (decodeSymbol T (bitStream s)).toOption

theorem witness_SymbolPlaces_codeLengths :
    symbolAt plainClTable (symbolsAt (at_ .dynLens) [0x1E] 0) = some (15, bits [0, 0, 0]) ∧
    symbolAt plainClTable (symbolsAt (at_ .dynLens) [0x01] 0) = some (16, bits [0, 0, 0]) ∧
    (symbolAt plainClTable (symbolsAt { at_ .dynLens with lensN := 257 } [0xC2] 1) = some (16, bits [1, 1]) ∧
      257 < 257 + 1) ∧
    symbolAt plainClTable (symbolsAt (at_ .dynLens) [0x11]) = some (17, bits [0, 0, 0]) ∧
    symbolAt plainClTable (symbolsAt (at_ .dynLens) [0x90, 0x00] 4) = some (18, bits [0, 0, 0, 0, 0, 0, 0]) := by
  decide +kernel

theorem witness_SymbolPlaces :
    (symbolAt fixedLitTable (symbolsAt (at_ .symbols) [0x89]) = some (0x61, []) ∧
      symbolAt fixedLitTable (symbolsAt (at_ .symbols) [0x00] 1) = some (256, []) ∧
      symbolAt fixedLitTable (symbolsAt (at_ .symbols) [0xC8]) = some (265, [true]) ∧ (265, 1, 11) ∈ lengthCodes ∧
      symbolAt fixedLitTable (symbolsAt (at_ .symbols) [0x63]) = some (286, [])) ∧
    symbolAt fixedDistTable (symbolsAt (at_ .symbols .tail) [0x90] 2) = some (4, [true]) ∧ (4, 1, 5) ∈ distanceCodes ∧
      symbolAt fixedDistTable (symbolsAt (at_ .symbols .tail) [0x78] 3) = some (30, []) := by
  decide +kernel

theorem witness_SymbolFailures :
    (∀ from_ ∈ [1, 2], symbolAt Table.empty { symbolsAt (at_ .symbols) [0, 0] from_ with litTab := Table.empty } = none) ∧
    avail (symbolsAt (at_ .symbols) [0, 0] 2) < 15 ∧ 15 ≤ avail (symbolsAt (at_ .symbols) [0, 0] 1) ∧
    symbolAt plainClTable (symbolsAt { at_ .dynLens with lensN := 1 } [0x84] 2) = some (16, [true]) ∧
    symbolAt plainClTable (symbolsAt (at_ .dynLens) [0x22] 1) = some (17, bits [0, 0]) ∧
    symbolAt plainClTable (symbolsAt (at_ .dynLens) [0x20, 0x01] 5) = some (18, bits [0, 0, 0, 0, 0, 0]) ∧
    (symbolAt fixedLitTable (symbolsAt (at_ .symbols) [0x90] 1) = some (265, []) ∧ (265, 1, 11) ∈ lengthCodes) ∧
    (symbolAt fixedDistTable (symbolsAt (at_ .symbols .tail) [0x20] 3) = some (4, []) ∧ (4, 1, 5) ∈ distanceCodes) := by
  decide +kernel

end Sys2Proof.Tests
end

section
/-! SUPPORT. Which tokens the decoder can give at a place, and where it finds no zlib header. -/

namespace Sys2Proof.Machine

/-- A decoder's answer at a place: a token of the place, and no missing zlib header anywhere else (43_zlib_adler.md
R302). -/
def OfSite (site : Site) : Decoded → Prop
  | .ok (i, _) => siteOf i = site
  | .error r => r = .noHeader → site = .zlibHdr

theorem ofSite_short (site : Site) : OfSite site (.error .short) := nofun

theorem ofSite_badSymbol (site : Site) : OfSite site (.error .badSymbol) := nofun

theorem ofSite_field {site : Site} {n : Nat} {bs : Bits} {k : Nat → Bits → Decoded}
    (hk : ∀ v bs, OfSite site (k v bs)) : OfSite site (field n bs k) := by
  unfold field
  split
  · exact ofSite_short site
  · exact hk _ _

theorem ofSite_skip {site : Site} {n : Nat} {bs : Bits} {k : Bits → Decoded} (hk : ∀ bs, OfSite site (k bs)) :
    OfSite site (skip n bs k) := by
  unfold skip
  split
  · exact ofSite_short site
  · exact hk _

/-- Where no codeword is found, no zlib header is looked for. -/
theorem ofSite_noSymbol {site : Site} {T : Table} {bs : Bits} {r : Reject} (h : decodeSymbol T bs = .error r) :
    OfSite site (.error r) := by
  rcases decodeFrom_error h with rfl | rfl
  · exact ofSite_short site
  · exact ofSite_badSymbol site

theorem ofSite_row {site : Site} {rows : List SymbolRow} {row : SymbolRow} {j : Nat} {bs : Bits}
    (hrows : ∀ row ∈ rows, ∀ e, siteOf (row.2 e) = site) (hj : rows[j]? = some row) :
    OfSite site (decodeRow row bs) :=
  ofSite_field fun e _ => hrows row (List.mem_of_getElem? hj) e

theorem siteOf_clRows : ∀ row ∈ clRows, ∀ e, siteOf (row.2 e) = .clSym false := by simp [clRows, siteOf]

theorem siteOf_lengthRows : ∀ row ∈ lengthRows, ∀ e, siteOf (row.2 e) = .litSym := by simp [lengthRows, siteOf]

theorem siteOf_distanceRows : ∀ row ∈ distanceRows, ∀ e, siteOf (row.2 e) = .distSym := by
  simp [distanceRows, siteOf]

theorem ofSite_decodeChunkType (bs : Bits) : OfSite .chunkType (decodeChunkType bs) := by
  refine ofSite_field fun type bs => ?_
  split
  · exact ofSite_field fun _ _ => ofSite_field fun _ _ => ofSite_field fun _ _ => ofSite_skip fun _ => rfl
  split
  · exact ofSite_skip fun _ => ofSite_field fun _ _ => ofSite_field fun _ _ => ofSite_skip fun _ => rfl
  split
  · exact ofSite_field fun _ _ => ofSite_skip fun _ => rfl
  split
  · refine ofSite_field fun _ _ => ofSite_field fun _ _ => ofSite_skip fun _ => ofSite_field fun _ _ => ?_
    split
    · split
      · exact ofSite_short _
      · rfl
    · rfl
  · rfl

theorem ofSite_decodePalEntry (bs : Bits) : OfSite .palEntry (decodePalEntry bs) := by
  refine ofSite_field fun _ _ => ofSite_field fun _ _ => ofSite_field fun _ _ => ofSite_field fun _ _ =>
    ofSite_field fun _ _ => ?_
  split <;> rfl

theorem ofSite_decodeCelType (bs : Bits) : OfSite .celType (decodeCelType bs) := by
  refine ofSite_field fun _ _ => ?_
  split
  · exact ofSite_skip fun _ => ofSite_field fun _ _ => ofSite_field fun _ _ => rfl
  · rfl

theorem ofSite_decodeTagRec (bs : Bits) : OfSite .tagRec (decodeTagRec bs) := by
  refine ofSite_field fun _ _ => ofSite_field fun _ _ => ofSite_skip fun _ => ofSite_field fun _ _ => ?_
  split
  · exact ofSite_short _
  · rfl

theorem ofSite_decodeSliceKey (bs : Bits) : OfSite .sliceKey (decodeSliceKey bs) := by
  unfold decodeSliceKey
  exact ofSite_skip fun _ => ofSite_field fun _ _ => ofSite_field fun _ _ => ofSite_field fun _ _ =>
    ofSite_field fun _ _ => rfl

theorem ofSite_decodeZlibHdr (bs : Bits) : OfSite .zlibHdr (decodeZlibHdr bs) := by
  unfold decodeZlibHdr
  split
  · exact fun _ => rfl
  split
  · exact fun _ => rfl
  split
  · rfl
  · exact fun _ => rfl

theorem ofSite_decodeBlkType (bs : Bits) : OfSite .blkType (decodeBlkType bs) := by
  refine ofSite_field fun _ _ => ?_
  split
  · rfl
  split
  · rfl
  split <;> rfl

theorem ofSite_decodeClSym (T : Table) (first : Bool) (bs : Bits) : OfSite (.clSym false) (decodeClSym T first bs) := by
  unfold decodeClSym
  split
  · rename_i hsym; exact ofSite_noSymbol hsym
  split
  · rfl
  split
  · rename_i hrow; exact ofSite_row siteOf_clRows hrow
  · exact ofSite_badSymbol _

theorem ofSite_decodeLitSym (T : Table) (bs : Bits) : OfSite .litSym (decodeLitSym T bs) := by
  unfold decodeLitSym
  split
  · rename_i hsym; exact ofSite_noSymbol hsym
  split
  · rfl
  split
  · rfl
  split
  · rename_i hrow; exact ofSite_row siteOf_lengthRows hrow
  · rfl

theorem ofSite_decodeDistSym (T : Table) (bs : Bits) : OfSite .distSym (decodeDistSym T bs) := by
  unfold decodeDistSym
  split
  · rename_i hsym; exact ofSite_noSymbol hsym
  split
  · rename_i hrow; exact ofSite_row siteOf_distanceRows hrow
  · rfl

theorem ofSite_decodeCtrl (bs : Bits) : OfSite .ctrl (decodeCtrl bs) := by
  refine ofSite_field fun _ _ => ofSite_field fun _ _ => ofSite_skip fun _ => ?_
  split
  · rfl
  · exact nofun

/-- The place of a place's tokens: whether a code-length symbol is the first (42_inflate.md R218) is no part of it. -/
def tokenSite : Site → Site
  | .clSym _ => .clSym false
  | site => site

theorem ofSite_decode (site : Site) (T : Table) (bs : Bits) : OfSite (tokenSite site) (decode site T bs) := by
  cases site with
  | fileHdr =>
    exact ofSite_field fun _ _ => ofSite_field fun _ _ => ofSite_field fun _ _ => ofSite_field fun _ _ =>
      ofSite_field fun _ _ => ofSite_field fun _ _ => ofSite_skip fun _ => ofSite_field fun _ _ =>
      ofSite_skip fun _ => rfl
  | frameHdr =>
    exact ofSite_field fun _ _ => ofSite_field fun _ _ => ofSite_field fun _ _ => ofSite_field fun _ _ =>
      ofSite_skip fun _ => ofSite_field fun _ _ => rfl
  | chunkType => exact ofSite_decodeChunkType bs
  | palEntry => exact ofSite_decodePalEntry bs
  | celType => exact ofSite_decodeCelType bs
  | tagRec => exact ofSite_decodeTagRec bs
  | sliceKey => exact ofSite_decodeSliceKey bs
  | zlibHdr => exact ofSite_decodeZlibHdr bs
  | trailer =>
    exact ofSite_field fun _ _ => ofSite_field fun _ _ => ofSite_field fun _ _ => ofSite_field fun _ _ => rfl
  | blkType => exact ofSite_decodeBlkType bs
  | chunkHdr | dictId | blkHdr | storedHdr => exact ofSite_field fun _ _ => ofSite_field fun _ _ => rfl
  | dynHdr => exact ofSite_field fun _ _ => ofSite_field fun _ _ => ofSite_field fun _ _ => rfl
  | clLen => exact ofSite_field fun _ _ => rfl
  | clSym first => exact ofSite_decodeClSym T first bs
  | litSym => exact ofSite_decodeLitSym T bs
  | distSym => exact ofSite_decodeDistSym T bs
  | ctrl => exact ofSite_decodeCtrl bs

/-- Every token the decoder gives is a token of the place. -/
theorem siteOf_of_decode {site : Site} {T : Table} {bs rest : Bits} {i : Instr}
    (h : decode site T bs = .ok (i, rest)) : siteOf i = tokenSite site := by
  have hs := ofSite_decode site T bs
  rwa [h] at hs

/-- Only a zlib header can be missing without a failure. -/
theorem decode_noHeader {site : Site} {T : Table} {bs : Bits} (h : decode site T bs = .error .noHeader) :
    site = .zlibHdr := by
  have hs := ofSite_decode site T bs
  rw [h] at hs
  cases site with
  | zlibHdr => rfl
  | _ => cases hs rfl

/-- A cel with its size is read from 13 bytes (44_container.md R362). -/
theorem decodeCelType_celCompressed {bs rest : Bits} {w h : Half}
    (hd : decodeCelType bs = .ok (.celCompressed w h, rest)) : 104 ≤ bs.length := by
  obtain ⟨h16, hd⟩ := field_ok hd
  split at hd
  · obtain ⟨h56, hd⟩ := skip_ok hd
    obtain ⟨hw, hd⟩ := field_ok hd
    obtain ⟨hh, -⟩ := field_ok hd
    simp only [List.length_drop] at *
    omega
  · cases hd

end Sys2Proof.Machine
end

section
/-! SUPPORT. The tokens by what they do: rows of the opcode table that share one meaning are taken together. -/

namespace Sys2Proof

open Machine

/-- Case analysis on a token by its meaning: the code lengths, the zero runs, the match lengths, the match distances, the
tokens that only move the sequencer and those that only fail are one case each, every other row its own. -/
theorem Instr.byMeaning {motive : Instr → Prop}
    (codeLength : ∀ i v, v ≤ 15 → siteOf i = .clSym false → (∀ s, exec i s = putLength v s) → motive i)
    (zeroRun : ∀ i r, siteOf i = .clSym false → (∀ s, exec i s = putRun 0 r s) → motive i)
    (length : ∀ i sym extra, siteOf i = .litSym → (∀ s, exec i s = beginMatch sym extra s) → motive i)
    (distance : ∀ i sym extra, siteOf i = .distSym → (∀ s, exec i s = finishMatch sym extra s) → motive i)
    (moves : ∀ i seq, siteOf i = .chunkType ∨ siteOf i = .dictId ∨ siteOf i = .blkType →
      Safety.inChunk seq .head = true → (∀ s, exec i s = .next { s with seq := seq, phase := .head }) → motive i)
    (fails : ∀ i c, (∀ s, exec i s = raise c s) → motive i)
    (fileHdr : ∀ size magic nframes width height depth tkey,
      motive (.fileHdr size magic nframes width height depth tkey))
    (frameHdr : ∀ bytes magic legacy duration newCount, motive (.frameHdr bytes magic legacy duration newCount))
    (chunkHdr : ∀ size type, motive (.chunkHdr size type))
    (chunkPalette : ∀ count first last, motive (.chunkPalette count first last))
    (chunkCel : ∀ x y, motive (.chunkCel x y))
    (chunkTags : ∀ n, motive (.chunkTags n))
    (chunkSlice : ∀ nkeys flags label, motive (.chunkSlice nkeys flags label))
    (palEntry : ∀ flags r g b a, motive (.palEntry flags r g b a))
    (celCompressed : ∀ w h, motive (.celCompressed w h))
    (tagRec : ∀ first last label, motive (.tagRec first last label))
    (sliceKey : ∀ x y w h, motive (.sliceKey x y w h))
    (zlibHdr : ∀ cmf flg, motive (.zlibHdr cmf flg))
    (adler32Trailer : ∀ adler, motive (.adler32Trailer adler))
    (blkHdr : ∀ bfinal btype, motive (.blkHdr bfinal btype))
    (storedHdr : ∀ len nlen, motive (.storedHdr len nlen))
    (dynHdr : ∀ hlit hdist hclen, motive (.dynHdr hlit hdist hclen))
    (clLen : ∀ len, motive (.clLen len))
    (clRep16 : ∀ extra, motive (.clRep16 extra))
    (lit : ∀ b, motive (.lit b))
    (eob : motive .eob)
    (start : ∀ flip, motive (.start flip))
    (i : Instr) : motive i := by
  cases i with
  | clLit0 | clLit1 | clLit2 | clLit3 | clLit4 | clLit5 | clLit6 | clLit7 | clLit8 | clLit9 | clLit10
  | clLit11 | clLit12 | clLit13 | clLit14 | clLit15 =>
    exact codeLength _ _ (by decide) rfl fun _ => rfl
  | clZero17 _ | clZero18 _ => exact zeroRun _ _ rfl fun _ => rfl
  | len257 | len258 | len259 | len260 | len261 | len262 | len263 | len264 | len265 _ | len266 _ | len267 _
  | len268 _ | len269 _ | len270 _ | len271 _ | len272 _ | len273 _ | len274 _ | len275 _ | len276 _
  | len277 _ | len278 _ | len279 _ | len280 _ | len281 _ | len282 _ | len283 _ | len284 _ | len285 =>
    exact length _ _ _ rfl fun _ => rfl
  | dist0 | dist1 | dist2 | dist3 | dist4 _ | dist5 _ | dist6 _ | dist7 _ | dist8 _ | dist9 _ | dist10 _
  | dist11 _ | dist12 _ | dist13 _ | dist14 _ | dist15 _ | dist16 _ | dist17 _ | dist18 _ | dist19 _
  | dist20 _ | dist21 _ | dist22 _ | dist23 _ | dist24 _ | dist25 _ | dist26 _ | dist27 _ | dist28 _
  | dist29 _ => exact distance _ _ _ rfl fun _ => rfl
  | chunkOther _ => exact moves _ .skip (.inl rfl) rfl fun _ => rfl
  | zlibDictid _ => exact moves _ .blkHdr (.inr (.inl rfl)) rfl fun _ => rfl
  | blkStored => exact moves _ .stored (.inr (.inr rfl)) rfl fun _ => rfl
  | blkFixed => exact moves _ .fixedSetup (.inr (.inr rfl)) rfl fun _ => rfl
  | blkDynamic => exact moves _ .dynHdr (.inr (.inr rfl)) rfl fun _ => rfl
  | palEntryNamed _ => exact fails _ .paletteName fun _ => rfl
  | celTypeOther _ => exact fails _ .celType fun _ => rfl
  | blkReserved => exact fails _ .badBlockType fun _ => rfl
  | lenInvalid _ => exact fails _ .badLengthSymbol fun _ => rfl
  | distInvalid _ => exact fails _ .badDistanceSymbol fun _ => rfl
  | fileHdr => exact fileHdr ..
  | frameHdr => exact frameHdr ..
  | chunkHdr => exact chunkHdr ..
  | chunkPalette => exact chunkPalette ..
  | chunkCel => exact chunkCel ..
  | chunkTags => exact chunkTags ..
  | chunkSlice => exact chunkSlice ..
  | palEntry => exact palEntry ..
  | celCompressed => exact celCompressed ..
  | tagRec => exact tagRec ..
  | sliceKey => exact sliceKey ..
  | zlibHdr => exact zlibHdr ..
  | adler32Trailer => exact adler32Trailer ..
  | blkHdr => exact blkHdr ..
  | storedHdr => exact storedHdr ..
  | dynHdr => exact dynHdr ..
  | clLen => exact clLen ..
  | clRep16 => exact clRep16 ..
  | lit => exact lit ..
  | eob => exact eob
  | start => exact start ..

end Sys2Proof
end

section
/-! SUPPORT. What the meanings that check something can do: a failure, or the step with what was checked. -/

namespace Sys2Proof.Machine

/-- An operation that can fail goes on with its value, or its cause is raised. -/
theorem orRaise_cases {α : Type} (r : Except Cause α) (s : State) (k : α → Answer) :
    (∃ v, r = .ok v ∧ orRaise r s k = k v) ∨ ∃ c, orRaise r s k = raise c s := by
  cases r with
  | ok v => exact .inl ⟨v, rfl, rfl⟩
  | error c => exact .inr ⟨c, rfl⟩

theorem bytesPerPixel_some {depth bpp : Nat} (h : bytesPerPixel depth = some bpp) : bpp = 1 ∨ bpp = 4 := by
  unfold bytesPerPixel at h
  split at h
  · exact .inl (Option.some.inj h).symm
  split at h
  · exact .inr (Option.some.inj h).symm
  · cases h

theorem execFileHdr_cases (size : Word) (magic nframes width height depth : Half) (tkey : Byte) (s : State) :
    (∃ c, execFileHdr size magic nframes width height depth tkey s =
      raise c (headerFields size nframes width height depth tkey s)) ∨
    ∃ bpp, (bpp = 1 ∨ bpp = 4) ∧ Config.headerSize ≤ size.toNat ∧
      (execFileHdr size magic nframes width height depth tkey s =
          raise .atlasTooLarge { headerFields size nframes width height depth tkey s with bpp := bpp } ∨
        execFileHdr size magic nframes width height depth tkey s =
          .next (startWalk { headerFields size nframes width height depth tkey s with bpp := bpp })) := by
  simp only [execFileHdr]
  split
  · exact .inl ⟨_, rfl⟩
  split
  · exact .inl ⟨_, rfl⟩
  rename_i hsize
  split
  · exact .inl ⟨_, rfl⟩
  rename_i bpp hbpp
  refine .inr ⟨bpp, bytesPerPixel_some hbpp, by simp only [headerFields_fileSize] at hsize; omega, ?_⟩
  split
  · exact .inl rfl
  · exact .inr rfl

theorem execFrameHdr_cases (bytes : Word) (magic legacy duration : Half) (newCount : Word) (s : State) :
    (∃ c, execFrameHdr bytes magic legacy duration newCount s = raise c (enterFrame s)) ∨
    (Config.frameHdrSize ≤ bytes.toNat ∧ s.cur + bytes.toNat ≤ s.fileSize ∧
      execFrameHdr bytes magic legacy duration newCount s = .next { enterFrame s with
        frameEnd := s.cur + bytes.toNat
        dur := s.dur.set s.frameIdx duration
        chunksLeft := chunkCount legacy newCount
        cur := s.cur + Config.frameHdrSize
        seq := .chunkHdr, phase := .head }) := by
  simp only [execFrameHdr]
  split
  · exact .inl ⟨_, rfl⟩
  split
  · exact .inl ⟨_, rfl⟩
  rename_i hsize
  simp only [enterFrame_cur, enterFrame_fileSize] at hsize
  exact .inr ⟨by omega, by omega, rfl⟩

theorem execChunkHdr_cases (size : Word) (type : Half) (s : State) :
    (execChunkHdr size type s = raise .badChunkSize (enterChunk s)) ∨
    (s.cur + size.toNat ≤ s.frameEnd ∧ execChunkHdr size type s = .next { enterChunk s with
      chunkEnd := s.cur + size.toNat, ctype := type, seq := .chunkHdr, phase := .tail }) := by
  simp only [execChunkHdr]
  split
  · exact .inl rfl
  rename_i hsize
  simp only [enterChunk_cur, enterChunk_frameEnd] at hsize
  exact .inr ⟨by omega, rfl⟩

theorem execChunkPalette_cases (count first last : Word) (s : State) :
    execChunkPalette count first last s = raise .paletteRange s ∨
    (count.toNat ≤ Config.palCapacity ∧ execChunkPalette count first last s = .next { s with
      palNew := count.toNat, palK := first.toNat, palLast := last.toNat, seq := .palette, phase := .head }) := by
  unfold execChunkPalette
  split
  · exact .inl rfl
  · exact .inr ⟨by omega, rfl⟩

theorem execChunkCel_cases (x y : Half) (s : State) :
    execChunkCel x y s = raise .negativeCelOffset { s with celX := celOffset x, celY := celOffset y } ∨
    execChunkCel x y s = .next { s with celX := celOffset x, celY := celOffset y, seq := .cel, phase := .head } := by
  simp only [execChunkCel]
  split
  · exact .inl rfl
  · exact .inr rfl

theorem execChunkSlice_cases (nkeys flags : Word) (label : List Byte) (s : State) :
    (∃ c, execChunkSlice nkeys flags label s = raise c s) ∨
    execChunkSlice nkeys flags label s = .next { s with sliceLabel := label, seq := .slice, phase := .head } := by
  unfold execChunkSlice
  split
  · exact .inl ⟨_, rfl⟩
  split
  · exact .inl ⟨_, rfl⟩
  · exact .inr rfl

theorem execCelCompressed_cases (w h : Half) (s : State) :
    (∃ c, execCelCompressed w h s = raise c { s with celW := w.toNat, celH := h.toNat }) ∨
    execCelCompressed w h s = .next (startStream (s.chunkStart + 26) s.chunkEnd (w.toNat * h.toNat * s.bpp)
      { s with celW := w.toNat, celH := h.toNat }) := by
  simp only [execCelCompressed]
  split
  · exact .inl ⟨_, rfl⟩
  split
  · exact .inl ⟨_, rfl⟩
  · exact .inr rfl

theorem execZlibHdr_cases (cmf flg : Byte) (s : State) :
    execZlibHdr cmf flg s = .next { s with seq := .zHdr, phase := .tail } ∨
    execZlibHdr cmf flg s = .next { s with seq := .blkHdr, phase := .head } := by
  unfold execZlibHdr
  split
  · exact .inl rfl
  · exact .inr rfl

theorem execAdler32Trailer_cases (adler : Word) (s : State) :
    (∃ c, execAdler32Trailer adler s = raise c s) ∨
    execAdler32Trailer adler s = .next { s with seq := .blit, phase := .head } := by
  unfold execAdler32Trailer
  split
  · exact .inl ⟨_, rfl⟩
  split
  · exact .inl ⟨_, rfl⟩
  · exact .inr rfl

theorem execStoredHdr_cases (len nlen : Half) (s : State) :
    (∃ c, execStoredHdr len nlen s = raise c s) ∨
    ∃ t, len.toNat ≤ s.outCap - s.outPos ∧ storedCopy len.toNat s = .ok t ∧
      execStoredHdr len nlen s = .next (endBlock t) := by
  unfold execStoredHdr
  split
  · exact .inl ⟨_, rfl⟩
  split
  · exact .inl ⟨_, rfl⟩
  rename_i hroom
  split
  · exact .inl ⟨_, rfl⟩
  rcases orRaise_cases (storedCopy len.toNat s) s fun t => .next (endBlock t) with ⟨t, ht, h⟩ | ⟨c, h⟩
  · exact .inr ⟨t, by omega, ht, h⟩
  · exact .inl ⟨c, h⟩

theorem execClRep16_cases (extra : BitVec 2) (s : State) :
    execClRep16 extra s = raise .badRepeat s ∨
    execClRep16 extra s = putRun (s.lens.getD (s.lensN - 1) 0) (rep16Count extra) s := by
  unfold execClRep16
  split
  · exact .inl rfl
  · exact .inr rfl

theorem execLit_cases (b : Byte) (s : State) :
    execLit b s = raise .outputOverflow s ∨ (s.outPos < s.outCap ∧ execLit b s = .next (put b s)) := by
  unfold execLit
  split
  · exact .inl rfl
  · exact .inr ⟨by omega, rfl⟩

theorem seqFrameEndCheck_cases (s : State) :
    seqFrameEndCheck s = raise .frameSizeMismatch s ∨
    seqFrameEndCheck s = .next (frameLoop (s.frameIdx + 1) s) := by
  unfold seqFrameEndCheck
  split
  · exact .inl rfl
  · exact .inr rfl

theorem seqFixedSetup_cases (s : State) :
    (∃ c, seqFixedSetup s = raise c s) ∨
    ∃ lit dist, buildFixedLit = .ok lit ∧ buildFixedDist = .ok dist ∧
      seqFixedSetup s = .next { s with litTab := lit, distTab := dist, seq := .symbols, phase := .head } := by
  unfold seqFixedSetup
  cases hlit : buildFixedLit with
  | error c => exact .inl ⟨c, rfl⟩
  | ok lit =>
    cases hdist : buildFixedDist with
    | error c => exact .inl ⟨c, rfl⟩
    | ok dist => exact .inr ⟨lit, dist, rfl, rfl, rfl⟩

theorem seqClTable_cases (s : State) :
    (∃ c, seqClTable s = raise c s) ∨
    ∃ T, buildTable s.clLens Config.clSyms Config.clSyms = .ok T ∧
      seqClTable s = .next { s with clTab := T, lensN := 0, seq := .dynLens, phase := .head } := by
  unfold seqClTable
  cases hT : buildTable s.clLens Config.clSyms Config.clSyms with
  | error c => exact .inl ⟨c, rfl⟩
  | ok T => exact .inr ⟨T, rfl, rfl⟩

theorem buildBlockTables_ok {s : State} {lit dist : Table} (h : buildBlockTables s = .ok (lit, dist)) :
    buildTable (s.lens.take s.hlit) s.hlit Config.litLenSyms = .ok lit ∧
      buildTable ((s.lens.drop s.hlit).take s.hdist) s.hdist Config.distSyms = .ok dist := by
  unfold buildBlockTables at h
  split at h
  · cases h
  rename_i lit' hlit
  split at h
  · cases h
  rename_i dist' hdist
  cases h
  exact ⟨hlit, hdist⟩

theorem seqBlockTables_cases (s : State) :
    (∃ c, seqBlockTables s = raise c s) ∨
    ∃ lit dist, buildTable (s.lens.take s.hlit) s.hlit Config.litLenSyms = .ok lit ∧
      buildTable ((s.lens.drop s.hlit).take s.hdist) s.hdist Config.distSyms = .ok dist ∧
      seqBlockTables s = .next { s with litTab := lit, distTab := dist, seq := .symbols, phase := .head } := by
  unfold seqBlockTables
  cases hT : buildBlockTables s with
  | error c => exact .inl ⟨c, rfl⟩
  | ok T =>
    obtain ⟨hlit, hdist⟩ := buildBlockTables_ok hT
    exact .inr ⟨T.1, T.2, hlit, hdist, rfl⟩

end Sys2Proof.Machine
end

section
/-! SUPPORT. What a place says of the sequencer, and the answers of a running engine as the host sees them: it goes on with
every host register as it was, it fails, or it publishes. -/

namespace Sys2Proof.Machine

open Sys2Proof.Safety

/-! ## Places -/

/-- The places inside a chunk, after its header. -/
def inBody : Site → Bool
  | .fileHdr | .frameHdr | .chunkHdr | .ctrl => false
  | .chunkType | .palEntry | .celType | .tagRec | .sliceKey | .zlibHdr | .dictId | .trailer | .blkHdr | .blkType
  | .storedHdr | .dynHdr | .clLen | .clSym _ | .litSym | .distSym => true

/-- The sequencer stands where the place's tokens are read (10_state.md R33). -/
structure AtPlace (site : Site) (s : State) : Prop where
  fileHdr : site = .fileHdr → s.seq = .fileHdr
  chunkHdr : site = .chunkHdr → s.seq = .chunkHdr
  body : inBody site = true → inChunk s.seq s.phase = true
  engine : site ≠ .ctrl
  runs : s.seq ≠ .idle ∧ s.seq ≠ .error

theorem nextSite_atPlace {s : State} {site : Site} (h : nextSite s = some site) : AtPlace site s := by
  unfold nextSite at h
  split at h <;> try split at h
  all_goals cases h
  all_goals constructor <;> simp_all [inBody, inChunk]

theorem tokenSite_atPlace {site : Site} {s : State} (h : AtPlace site s) : AtPlace (tokenSite site) s := by
  cases site with
  | clSym first => exact ⟨nofun, nofun, fun _ => h.body rfl, nofun, h.runs⟩
  | _ => exact h

section
variable (site : Site) (n : Nat) (s : State)

@[simp] theorem pastToken_seq : (pastToken site n s).seq = s.seq := by cases site <;> rfl
@[simp] theorem pastToken_phase : (pastToken site n s).phase = s.phase := by cases site <;> rfl
@[simp] theorem pastToken_cur : (pastToken site n s).cur = s.cur := by cases site <;> rfl
@[simp] theorem enterSite_seq : (enterSite site s).seq = s.seq := by cases site <;> rfl
@[simp] theorem enterSite_phase : (enterSite site s).phase = s.phase := by cases site <;> rfl
@[simp] theorem enterSite_cur : (enterSite site s).cur = s.cur := by cases site <;> rfl

end

theorem pastToken_atPlace {site place : Site} {n : Nat} {s : State} (h : AtPlace place s) :
    AtPlace place (pastToken site n s) := by
  obtain ⟨hfile, hchunk, hbody, hengine, hruns⟩ := h
  constructor <;> simpa

/-- The engine's step where a token is read: the token runs at its own place, or the place's rejection. -/
theorem engineStep_cases {s : State} {site : Site} (h : nextSite s = some site) :
    (∃ i rest, decode site (siteTable site (enterSite site s)) (siteBits site (enterSite site s)) = .ok (i, rest) ∧
      AtPlace (siteOf i) (pastToken site ((siteBits site (enterSite site s)).length - rest.length) s) ∧
      engineStep s = exec i (pastToken site ((siteBits site (enterSite site s)).length - rest.length) s)) ∨
    (∃ r, decode site (siteTable site (enterSite site s)) (siteBits site (enterSite site s)) = .error r ∧
      engineStep s = rejected site r (enterSite site s)) := by
  cases hd : decode site (siteTable site (enterSite site s)) (siteBits site (enterSite site s)) with
  | error r => exact .inr ⟨r, rfl, engineStep_rejected h (by simp [fetch, hd])⟩
  | ok p =>
    obtain ⟨i, rest⟩ := p
    refine .inl ⟨i, rest, rfl, pastToken_atPlace ?_, engineStep_token h (by simp [fetch, hd])⟩
    rw [siteOf_of_decode hd]
    exact tokenSite_atPlace (nextSite_atPlace h)

/-! ## The host's view of a running engine -/

/-- The two states have the same host registers. -/
structure SameHostRegs (s t : State) : Prop where
  ctrl : t.ctrl = s.ctrl
  status : t.status = s.status
  errInfo : t.errInfo = s.errInfo
  errOffset : t.errOffset = s.errOffset
  inLen : t.inLen = s.inLen
  res : t.res = s.res

theorem SameHostRegs.refl (s : State) : SameHostRegs s s := ⟨rfl, rfl, rfl, rfl, rfl, rfl⟩

theorem SameHostRegs.trans {s t u : State} (h : SameHostRegs s t) (h' : SameHostRegs t u) : SameHostRegs s u :=
  ⟨h'.ctrl.trans h.ctrl, h'.status.trans h.status, h'.errInfo.trans h.errInfo, h'.errOffset.trans h.errOffset,
    h'.inLen.trans h.inLen, h'.res.trans h.res⟩

/-- What a running engine answers, as the host sees it. -/
inductive Runs (s : State) : Answer → Prop
  | goesOn {t : State} (h : SameHostRegs s t) (hidle : t.seq ≠ .idle) (herror : t.seq ≠ .error) : Runs s (.next t)
  | fails {t : State} (c : Cause) (h : SameHostRegs s t) : Runs s (raise c t)
  | publishes {t : State} (h : SameHostRegs s t) : Runs s (.next (publish t))

theorem Runs.trans {s t : State} {o : Answer} (ho : Runs t o) (h : SameHostRegs s t) : Runs s o := by
  cases ho with
  | goesOn h' hidle herror => exact .goesOn (h.trans h') hidle herror
  | fails c h' => exact .fails c (h.trans h')
  | publishes h' => exact .publishes (h.trans h')

theorem Runs.of_eq {s : State} {o o' : Answer} (he : o = o') (ho : Runs s o') : Runs s o := he ▸ ho

/-- An answer that only moves the sequencer, to a state where it runs. -/
theorem Runs.ofSeq {s t : State} {seq : Seq} (h : SameHostRegs s t) (ht : t.seq = seq)
    (hs : seq ≠ .idle ∧ seq ≠ .error := by exact ⟨nofun, nofun⟩) : Runs s (.next t) :=
  .goesOn h (ht ▸ hs.1) (ht ▸ hs.2)

theorem pastToken_sameHostRegs (site : Site) (n : Nat) (s : State) : SameHostRegs s (pastToken site n s) := by
  cases site <;> exact ⟨rfl, rfl, rfl, rfl, rfl, rfl⟩

theorem enterSite_sameHostRegs (site : Site) (s : State) : SameHostRegs s (enterSite site s) := by
  cases site <;> exact ⟨rfl, rfl, rfl, rfl, rfl, rfl⟩

theorem matchCopy_sameHostRegs (dist n : Nat) (s : State) : SameHostRegs s (matchCopy dist n s) := by
  rw [matchCopy_frame]
  exact ⟨rfl, rfl, rfl, rfl, rfl, rfl⟩

theorem storedCopy_sameHostRegs {n : Nat} {s t : State} (h : storedCopy n s = .ok t) : SameHostRegs s t := by
  rw [(storedCopy_frame h).2]
  exact ⟨rfl, rfl, rfl, rfl, rfl, rfl⟩

theorem frameLoop_runs {f : Nat} {s t : State} (h : SameHostRegs s t) : Runs s (.next (frameLoop f t)) := by
  rcases frameLoop_cases f t with ⟨-, he⟩ | ⟨-, he⟩
  · rw [he]; exact .ofSeq (h.trans ⟨rfl, rfl, rfl, rfl, rfl, rfl⟩) rfl
  · rw [he]
    refine .goesOn (h.trans ⟨rfl, rfl, rfl, rfl, rfl, rfl⟩) ?_ ?_ <;>
      (rw [afterFrames_seq]; split <;> nofun)

theorem endBlock_runs {s t : State} (h : SameHostRegs s t) : Runs s (.next (endBlock t)) := by
  refine .goesOn (h.trans ⟨rfl, rfl, rfl, rfl, rfl, rfl⟩) ?_ ?_ <;> (rw [endBlock_seq]; split <;> nofun)

theorem putRun_runs {v r : Nat} {s : State} (hs : s.seq ≠ .idle ∧ s.seq ≠ .error) : Runs s (putRun v r s) := by
  rcases putRun_cases v r s with ⟨-, h⟩ | ⟨-, h⟩
  · rw [h]; exact .fails _ (.refl _)
  · rw [h]; exact .goesOn ⟨rfl, rfl, rfl, rfl, rfl, rfl⟩ hs.1 hs.2

theorem finishMatch_runs (sym extra : Nat) (s : State) : Runs s (finishMatch sym extra s) := by
  rcases finishMatch_cases sym extra s with ⟨-, h⟩ | ⟨-, -, h⟩ | ⟨-, -, h⟩
  · rw [h]; exact .fails _ (.refl _)
  · rw [h]; exact .fails _ (.refl _)
  · rw [h]; exact .ofSeq ((matchCopy_sameHostRegs _ _ s).trans ⟨rfl, rfl, rfl, rfl, rfl, rfl⟩) rfl

theorem execFileHdr_runs (size : Word) (magic nframes width height depth : Half) (tkey : Byte) (s : State) :
    Runs s (execFileHdr size magic nframes width height depth tkey s) := by
  rcases execFileHdr_cases size magic nframes width height depth tkey s with ⟨c, h⟩ | ⟨bpp, -, -, h | h⟩
  · rw [h]; exact .fails c ⟨rfl, rfl, rfl, rfl, rfl, rfl⟩
  · rw [h]; exact .fails _ ⟨rfl, rfl, rfl, rfl, rfl, rfl⟩
  · rw [h]; exact frameLoop_runs ⟨rfl, rfl, rfl, rfl, rfl, rfl⟩

/-- The meaning of every token but START leaves the host registers alone, but for its failures. -/
theorem exec_runs {i : Instr} {s : State} (h : AtPlace (siteOf i) s) : Runs s (exec i s) := by
  have hrun := h.runs
  induction i using Instr.byMeaning with
  | codeLength i v _ _ he => rw [he]; exact .goesOn ⟨rfl, rfl, rfl, rfl, rfl, rfl⟩ hrun.1 hrun.2
  | zeroRun i r _ he => rw [he]; exact putRun_runs hrun
  | length i sym extra _ he => rw [he]; exact .ofSeq ⟨rfl, rfl, rfl, rfl, rfl, rfl⟩ rfl
  | distance i sym extra _ he => rw [he]; exact finishMatch_runs sym extra s
  | moves i seq _ hc he =>
    rw [he]
    refine .ofSeq ⟨rfl, rfl, rfl, rfl, rfl, rfl⟩ rfl ⟨?_, ?_⟩ <;> (rintro rfl; cases hc)
  | fails i c he => rw [he]; exact .fails c (.refl _)
  | fileHdr => exact execFileHdr_runs ..
  | frameHdr bytes magic legacy duration newCount =>
    rcases execFrameHdr_cases bytes magic legacy duration newCount s with ⟨c, he⟩ | ⟨-, -, he⟩
    · exact .of_eq he (.fails c ⟨rfl, rfl, rfl, rfl, rfl, rfl⟩)
    · exact .of_eq he (.ofSeq ⟨rfl, rfl, rfl, rfl, rfl, rfl⟩ rfl)
  | chunkHdr size type =>
    rcases execChunkHdr_cases size type s with he | ⟨-, he⟩
    · exact .of_eq he (.fails _ ⟨rfl, rfl, rfl, rfl, rfl, rfl⟩)
    · exact .of_eq he (.ofSeq ⟨rfl, rfl, rfl, rfl, rfl, rfl⟩ rfl)
  | chunkPalette count first last =>
    rcases execChunkPalette_cases count first last s with he | ⟨-, he⟩
    · exact .of_eq he (.fails _ (.refl _))
    · exact .of_eq he (.ofSeq ⟨rfl, rfl, rfl, rfl, rfl, rfl⟩ rfl)
  | chunkCel x y =>
    rcases execChunkCel_cases x y s with he | he
    · exact .of_eq he (.fails _ ⟨rfl, rfl, rfl, rfl, rfl, rfl⟩)
    · exact .of_eq he (.ofSeq ⟨rfl, rfl, rfl, rfl, rfl, rfl⟩ rfl)
  | chunkSlice nkeys flags label =>
    rcases execChunkSlice_cases nkeys flags label s with ⟨c, he⟩ | he
    · exact .of_eq he (.fails c (.refl _))
    · exact .of_eq he (.ofSeq ⟨rfl, rfl, rfl, rfl, rfl, rfl⟩ rfl)
  | celCompressed w height =>
    rcases execCelCompressed_cases w height s with ⟨c, he⟩ | he
    · exact .of_eq he (.fails c ⟨rfl, rfl, rfl, rfl, rfl, rfl⟩)
    · exact .of_eq he (.ofSeq ⟨rfl, rfl, rfl, rfl, rfl, rfl⟩ rfl)
  | zlibHdr cmf flg =>
    rcases execZlibHdr_cases cmf flg s with he | he <;> exact .of_eq he (.ofSeq ⟨rfl, rfl, rfl, rfl, rfl, rfl⟩ rfl)
  | adler32Trailer adler =>
    rcases execAdler32Trailer_cases adler s with ⟨c, he⟩ | he
    · exact .of_eq he (.fails c (.refl _))
    · exact .of_eq he (.ofSeq ⟨rfl, rfl, rfl, rfl, rfl, rfl⟩ rfl)
  | storedHdr len nlen =>
    rcases execStoredHdr_cases len nlen s with ⟨c, he⟩ | ⟨t, -, ht, he⟩
    · exact .of_eq he (.fails c (.refl _))
    · exact .of_eq he (endBlock_runs (storedCopy_sameHostRegs ht))
  | clRep16 extra =>
    rcases execClRep16_cases extra s with he | he
    · exact .of_eq he (.fails _ (.refl _))
    · exact .of_eq he (putRun_runs hrun)
  | lit b =>
    rcases execLit_cases b s with he | ⟨-, he⟩
    · exact .of_eq he (.fails _ (.refl _))
    · exact .of_eq he (.goesOn ⟨rfl, rfl, rfl, rfl, rfl, rfl⟩ hrun.1 hrun.2)
  | chunkTags | blkHdr | dynHdr | sliceKey => exact .ofSeq ⟨rfl, rfl, rfl, rfl, rfl, rfl⟩ rfl
  | palEntry | tagRec | clLen => exact .goesOn ⟨rfl, rfl, rfl, rfl, rfl, rfl⟩ hrun.1 hrun.2
  | eob => exact endBlock_runs (.refl _)
  | start => exact absurd rfl h.engine

/-- A place's rejection is a failure, or without a zlib header the first block. -/
theorem rejected_runs {site : Site} {r : Reject} {s : State} (hs : s.seq ≠ .idle ∧ s.seq ≠ .error) :
    Runs s (rejected site r s) := by
  cases r with
  | short => exact .fails _ (.refl _)
  | badSymbol => exact .fails _ (.refl _)
  | noHeader => exact .ofSeq ⟨rfl, rfl, rfl, rfl, rfl, rfl⟩ rfl
  | noStart => exact .goesOn (.refl _) hs.1 hs.2

theorem sequence_runs {s : State} (hs : s.seq ≠ .idle ∧ s.seq ≠ .error) : Runs s (sequence s) := by
  unfold sequence
  cases hseq : s.seq with
  | chunkHdr | palette | tags | skip | blit | flip => exact .ofSeq ⟨rfl, rfl, rfl, rfl, rfl, rfl⟩ rfl
  | frameEndCheck =>
    rcases seqFrameEndCheck_cases s with he | he
    · exact .of_eq he (.fails _ (.refl _))
    · exact .of_eq he (frameLoop_runs (.refl _))
  | fixedSetup =>
    rcases seqFixedSetup_cases s with ⟨c, he⟩ | ⟨lit, dist, -, -, he⟩
    · exact .of_eq he (.fails c (.refl _))
    · exact .of_eq he (.ofSeq ⟨rfl, rfl, rfl, rfl, rfl, rfl⟩ rfl)
  | dynCl =>
    rcases seqClTable_cases s with ⟨c, he⟩ | ⟨T, -, he⟩
    · exact .of_eq he (.fails c (.refl _))
    · exact .of_eq he (.ofSeq ⟨rfl, rfl, rfl, rfl, rfl, rfl⟩ rfl)
  | dynLens =>
    rcases seqBlockTables_cases s with ⟨c, he⟩ | ⟨lit, dist, -, -, he⟩
    · exact .of_eq he (.fails c (.refl _))
    · exact .of_eq he (.ofSeq ⟨rfl, rfl, rfl, rfl, rfl, rfl⟩ rfl)
  | done => exact .publishes (.refl _)
  | idle => exact absurd hseq hs.1
  | error => exact absurd hseq hs.2
  | fileHdr | frameHdr | cel | slice | zHdr | blkHdr | stored | dynHdr | symbols | trailer =>
    exact .goesOn (.refl _) hs.1 hs.2

theorem engineStep_runs {s : State} (hs : s.seq ≠ .idle ∧ s.seq ≠ .error) : Runs s (engineStep s) := by
  cases hsite : nextSite s with
  | none => rw [engineStep_sequence hsite]; exact sequence_runs hs
  | some site =>
    rcases engineStep_cases hsite with ⟨i, rest, -, hplace, he⟩ | ⟨r, -, he⟩
    · rw [he]; exact (exec_runs hplace).trans (pastToken_sameHostRegs _ _ s)
    · rw [he]; exact (rejected_runs (by simpa using hs)).trans (enterSite_sameHostRegs _ s)

/-- An idle engine does nothing (70_reset_and_hazards.md R440). -/
theorem engineStep_idle {s : State} (h : s.seq = .idle) : engineStep s = .next s := by
  rw [engineStep_sequence (by simp [nextSite, h])]
  simp [sequence, h]

end Sys2Proof.Machine
end

section
/-! SUPPORT. The host's actions: what each register write does, and what a host action can leave. -/

namespace Sys2Proof.Machine

theorem ctrlWord_cases (flip : Bool) : ctrlWord flip = 0 ∨ ctrlWord flip = 2 := by cases flip <;> simp [ctrlWord]

/-- A written value's bits 31:0, as IN_LEN holds them (10_state.md R42). -/
theorem toNat_inLenWord (v : Reg) : (BitVec.ofNat 64 (v.toNat % 2 ^ 32)).toNat = v.toNat % 2 ^ 32 := by
  rw [BitVec.toNat_ofNat]
  omega

theorem writeReg_flip {v : Reg} (s : State) (h : ctrlStart v = false) :
    writeReg 0 v s = .next (writeFlip (ctrlFlip v) s) := by
  show writeCtrl v s = _
  rw [writeCtrl_eq, h]
  rfl

theorem writeReg_inLen_busy (v : Reg) {s : State} (h : busy s = true) : writeReg 4 v s = .next s := by
  simp [writeReg, writeInLen, h]

theorem writeReg_inLen_idle (v : Reg) {s : State} (h : busy s = false) :
    writeReg 4 v s = .next { s with inLen := BitVec.ofNat 64 (v.toNat % 2 ^ 32) } := by
  simp [writeReg, writeInLen, h]

theorem writeReg_other {index : Nat} (v : Reg) (s : State) (h0 : index ≠ 0) (h4 : index ≠ 4) :
    writeReg index v s = .next s := by
  simp [writeReg, h0, h4]

/-- What a host action can leave. -/
inductive HostMove (s : State) : State → Prop
  | same : HostMove s s
  | flip (b : Bool) : HostMove s (writeFlip b s)
  | start (b : Bool) : HostMove s (startLoad (writeFlip b s))
  | inLen (v : Reg) : HostMove s { s with inLen := BitVec.ofNat 64 (v.toNat % 2 ^ 32) }
  | input (m : Memory) : HostMove s { s with inp := m }
  | read (v : Option HostValue) : HostMove s { s with rx := v }
  | reset : HostMove s (resetBlock s)

theorem writeReg_hostMove {index : Nat} {v : Reg} {s t : State} (h : writeReg index v s = .next t) : HostMove s t := by
  by_cases h0 : index = 0
  · subst h0
    cases hstart : ctrlStart v with
    | false => rw [writeReg_flip s hstart] at h; cases h; exact .flip _
    | true =>
      have hw : writeReg 0 v s = execStart (ctrlFlip v) s := by
        show writeCtrl v s = _
        rw [writeCtrl_eq, hstart]
        rfl
      rw [hw] at h
      rcases execStart_cases (ctrlFlip v) s with ⟨-, he⟩ | ⟨-, he⟩ <;> rw [he] at h <;> cases h
      · exact .flip _
      · exact .start _
  by_cases h4 : index = 4
  · subst h4
    cases hb : busy s with
    | true => rw [writeReg_inLen_busy v hb] at h; cases h; exact .same
    | false => rw [writeReg_inLen_idle v hb] at h; cases h; exact .inLen v
  · rw [writeReg_other v s h0 h4] at h; cases h; exact .same

theorem hostRead_hostMove {v : Option HostValue} {s t : State} (h : hostRead v s = .next t) : HostMove s t := by
  unfold hostRead at h
  split at h
  · cases h
  split at h
  · cases h; exact .read _
  · cases h

theorem hostAct_hostMove {op : HostOp} {s t : State} (h : hostAct op s = .next t) : HostMove s t := by
  cases op with
  | wait => cases h; exact .same
  | writeReg index v => exact writeReg_hostMove h
  | writeIn a b =>
    simp only [hostAct, hostWriteIn] at h
    split at h
    · cases h
    split at h
    · cases h; exact .input _
    · cases h
  | readReg index => cases h; exact .read _
  | readAtlas a | readPal a | readDur a | readTag a | readSlice a => exact hostRead_hostMove h
  | reset => cases h; exact .reset

/-- What one step can do: the engine steps, or the host's next action is done; the schedule goes on by at most one. -/
theorem step_next {s t : State} (h : step s = .next t) :
    ∃ rest, engineStep { s with host := rest } = .next t ∨ HostMove { s with host := rest } t := by
  cases hhost : s.host with
  | nil =>
    refine ⟨[], .inl ?_⟩
    rw [step_engine hhost] at h
    rwa [← hhost]
  | cons op rest =>
    refine ⟨rest, ?_⟩
    by_cases hw : op = .wait
    · subst hw; rw [step_wait hhost] at h; exact .inl h
    · rw [step_host hhost hw] at h; exact .inr (hostAct_hostMove h)

end Sys2Proof.Machine
end

section
/-! The host registers (10_state.md section 5): O3, and the agreement of the host registers, STATUS and SEQ, O53. -/

namespace Sys2Proof.Machine

open Sys2Proof.Safety

/-- Settles O3, by the laws of `writeReg`. -/
theorem hostRegisterWrites : Obligations.HostRegisterWrites := by
  unfold Obligations.HostRegisterWrites
  refine ⟨rfl, fun _ => rfl, fun s index v rest h => ?_⟩
  rw [step_host h nofun]
  refine ⟨?_, ?_, ?_, fun h0 h4 => writeReg_other v _ h0 h4⟩
  · rintro rfl hstart; exact writeReg_flip _ hstart
  · rintro rfl hb; exact writeReg_inLen_busy v hb
  · rintro rfl hb; exact ⟨_, writeReg_inLen_idle v hb, rfl, toNat_inLenWord v⟩

/-- During a load STATUS is BUSY alone (10_state.md R39). -/
theorem status_of_busy {s : State} (h : HostForm s) (hb : busy s = true) : s.status = 1 := by
  unfold busy at hb
  rcases h.status with hs | hs | hs | hs <;> rw [hs] at hb
  · cases hb
  · exact hs
  · cases hb
  · cases hb

theorem busy_of_status {s : State} {v : Reg} (h : s.status = v) : busy s = statusBusy v := congrArg statusBusy h

/-- The registers of a load that runs. -/
theorem hostForm_of_running {s : State} (hctrl : s.ctrl = 0 ∨ s.ctrl = 2) (hlen : s.inLen.toNat < 2 ^ 32)
    (hs : s.status = 1) (hn : NoReport s) (hidle : s.seq ≠ .idle) (herror : s.seq ≠ .error) : HostForm s where
  ctrl := hctrl
  status := .inr (.inl hs)
  idle := by simp [hidle, busy_of_status hs, statusBusy]
  rests := herror
  inLen := hlen
  fresh h := by rw [hs] at h; cases h
  running _ := hn
  success h := by rw [hs] at h; cases h
  failure h := by rw [hs] at h; cases h

/-- The registers a failure leaves (60_exceptions.md R405). -/
theorem hostForm_failEntry {s : State} (c : Cause) (hctrl : s.ctrl = 0 ∨ s.ctrl = 2) (hlen : s.inLen.toNat < 2 ^ 32)
    (hres : s.res = Results.zero) : HostForm (failEntry c s) where
  ctrl := hctrl
  status := .inr (.inr (.inr rfl))
  idle := iff_of_true rfl ((busy_of_status (v := 6) rfl).trans (by decide))
  rests := nofun
  inLen := hlen
  fresh := nofun
  running := nofun
  success := nofun
  failure _ := ⟨⟨c, rfl⟩, hres, rfl, rfl, rfl, rfl, rfl, rfl⟩

/-- The registers a success leaves (60_exceptions.md R421). -/
theorem hostForm_publish {s : State} (hctrl : s.ctrl = 0 ∨ s.ctrl = 2) (hlen : s.inLen.toNat < 2 ^ 32)
    (hn : NoReport s) : HostForm (publish s) where
  ctrl := hctrl
  status := .inr (.inr (.inl rfl))
  idle := iff_of_true rfl ((busy_of_status (v := 2) rfl).trans (by decide))
  rests := nofun
  inLen := hlen
  fresh := nofun
  running := nofun
  success _ := ⟨hn.1, hn.2.1⟩
  failure := nofun

theorem hostForm_resetBlock (s : State) : HostForm (resetBlock s) where
  ctrl := .inl rfl
  status := .inl rfl
  idle := iff_of_true rfl ((busy_of_status (v := 0) rfl).trans (by decide))
  rests := nofun
  inLen := Nat.two_pow_pos 32
  fresh _ := ⟨⟨rfl, rfl, rfl⟩, rfl, rfl, rfl, rfl, rfl, rfl⟩
  running := nofun
  success := nofun
  failure := nofun

/-- What a running engine answers keeps the agreement. -/
theorem hostForm_of_runs {s t : State} {o : Answer} (h : HostForm s) (hb : busy s = true) (ho : Runs s o)
    (ht : o = .next t) : HostForm t := by
  have hs := status_of_busy h hb
  obtain ⟨herr, hoff, hres⟩ := h.running hs
  cases ho with
  | goesOn hu hidle herror =>
    cases ht
    exact hostForm_of_running (hu.ctrl ▸ h.ctrl) (hu.inLen ▸ h.inLen) (hu.status.trans hs)
      ⟨hu.errInfo.trans herr, hu.errOffset.trans hoff, hu.res.trans hres⟩ hidle herror
  | fails c hu =>
    cases ht
    exact hostForm_failEntry c (hu.ctrl ▸ h.ctrl) (hu.inLen ▸ h.inLen) (hu.res.trans hres)
  | publishes hu =>
    cases ht
    exact hostForm_publish (hu.ctrl ▸ h.ctrl) (hu.inLen ▸ h.inLen)
      ⟨hu.errInfo.trans herr, hu.errOffset.trans hoff, hu.res.trans hres⟩

theorem hostForm_engineStep {s t : State} (h : HostForm s) (ht : engineStep s = .next t) : HostForm t := by
  cases hb : busy s with
  | true =>
    have hidle : s.seq ≠ .idle := fun hi => by rw [h.idle.1 hi] at hb; cases hb
    exact hostForm_of_runs h hb (engineStep_runs ⟨hidle, h.rests⟩) ht
  | false =>
    rw [engineStep_idle (h.idle.2 hb)] at ht
    cases ht
    exact h

theorem hostForm_hostMove {s t : State} (h : HostForm s) (ht : HostMove s t) : HostForm t := by
  cases ht with
  | same => exact h
  | flip b => exact { h with ctrl := ctrlWord_cases b }
  | start b => exact hostForm_of_running (ctrlWord_cases b) h.inLen rfl ⟨rfl, rfl, rfl⟩ nofun nofun
  | inLen v => exact { h with inLen := by rw [toNat_inLenWord]; exact Nat.mod_lt _ (by decide) }
  | input m => exact { h with }
  | read v => exact { h with }
  | reset => exact hostForm_resetBlock s

/-- Settles O53: every step is a host move or a step of the engine, and an engine that runs goes on, fails or publishes. -/
theorem hostFormKept : Obligations.HostFormKept := by
  unfold Obligations.HostFormKept
  intro s t h hstep
  obtain ⟨rest, hnext⟩ := step_next hstep
  have hrest : HostForm { s with host := rest } := { h with }
  rcases hnext with hengine | hmove
  · exact hostForm_engineStep hrest hengine
  · exact hostForm_hostMove hrest hmove

end Sys2Proof.Machine
end

section
/-! The datapath registers (10_state.md R31, R34, R35, R44, R45): what each shared operation and each token leaves in its
width and range, and O54. -/

namespace Sys2Proof.Machine

open Sys2Proof.Safety

/-! ## Moves of the sequencer -/

theorem inFrame_of_inChunk {seq : Seq} {phase : Phase} (h : inChunk seq phase = true) :
    inFrame seq = true ∧ seq ≠ .frameHdr := by
  cases seq <;> simp_all [inChunk, inFrame]

/-- CUR lies in the file, the frame and the chunk wherever the sequencer goes on inside a chunk. -/
theorem registersFit_goTo {s : State} (h : RegistersFit s) (hc : inChunk s.seq s.phase = true) (seq : Seq)
    (phase : Phase) : RegistersFit { s with seq := seq, phase := phase } :=
  have hf := inFrame_of_inChunk hc
  { h with
    curInFile := fun _ => h.curInFile hf.1
    curInFrame := fun _ _ => h.curInFrame hf.1 hf.2
    curInChunk := fun _ => h.curInChunk hc }

/-- Outside the walk of the frames nothing is asked of CUR but its width. -/
theorem registersFit_leave {s : State} (h : RegistersFit s) {seq : Seq} (hout : inFrame seq = false) (phase : Phase) :
    RegistersFit { s with seq := seq, phase := phase } :=
  { h with
    curInFile := fun hf => by cases hout.symm.trans hf
    curInFrame := fun hf => by cases hout.symm.trans hf
    curInChunk := fun hc => by cases hout.symm.trans (inFrame_of_inChunk hc).1 }

theorem errAddress_lt {s : State} (h : RegistersFit s) (c : Cause) : errAddress c s < 2 ^ 32 := by
  unfold errAddress
  split
  · decide
  · exact h.frame.1
  · exact h.chunk.1

theorem registersFit_failEntry {s : State} (h : RegistersFit s) (c : Cause) : RegistersFit (failEntry c s) :=
  { registersFit_leave h (seq := .idle) rfl .head with
    errOffset := by
      have ha := errAddress_lt h c
      show (BitVec.ofNat 64 (errAddress c s)).toNat < 2 ^ 32
      rw [BitVec.toNat_ofNat]
      omega }

theorem registersFit_publish {s : State} (h : RegistersFit s) : RegistersFit (publish s) :=
  { registersFit_leave h (seq := .idle) rfl .head with }

/-! ## The reader and the output -/

theorem registersFit_advanceBits {s : State} (h : RegistersFit s) {n : Nat} (hn : n ≤ avail s) :
    RegistersFit (advanceBits n s) :=
  { h with
    brPos := by
      have hpos := h.brPos
      unfold avail at hn
      rw [advanceBits_brPos, advanceBits_brEnd, advanceBits_brStart]
      omega }

/-- Aligning stays in the reader's range (40_bit_reader.md R156). -/
theorem registersFit_byteAlign {s : State} (h : RegistersFit s) : RegistersFit (byteAlign s) :=
  { h with brPos := alignUp_le h.brPos }

theorem registersFit_put {s : State} (h : RegistersFit s) (b : Byte) (hroom : s.outPos < s.outCap) :
    RegistersFit (put b s) :=
  { h with
    outPos := hroom
    adler := ⟨Nat.mod_lt _ (by decide), Nat.mod_lt _ (by decide)⟩ }

theorem registersFit_matchCopy {s : State} (h : RegistersFit s) (dist : Nat) {n : Nat}
    (hroom : s.outPos + n ≤ s.outCap) : RegistersFit (matchCopy dist n s) := by
  induction n generalizing s with
  | zero => exact h
  | succ n ih => exact ih (registersFit_put h _ (by omega)) (by simp only [put_outPos, put_outCap]; omega)

theorem matchCopy_walk (dist n : Nat) (s : State) : (matchCopy dist n s).seq = s.seq ∧
    (matchCopy dist n s).phase = s.phase ∧ (matchCopy dist n s).cur = s.cur := by
  rw [matchCopy_frame]
  exact ⟨rfl, rfl, rfl⟩

theorem storedCopy_walk {n : Nat} {s t : State} (h : storedCopy n s = .ok t) :
    t.seq = s.seq ∧ t.phase = s.phase ∧ t.cur = s.cur := by
  rw [(storedCopy_frame h).2]
  exact ⟨rfl, rfl, rfl⟩

theorem registersFit_storedCopy {s t : State} {n : Nat} (h : RegistersFit s) (hroom : s.outPos + n ≤ s.outCap)
    (ht : storedCopy n s = .ok t) : RegistersFit t := by
  induction n generalizing s with
  | zero => cases ht; exact h
  | succ n ih =>
    simp only [storedCopy] at ht
    split at ht
    · cases ht
    · rename_i b u hr
      obtain ⟨h8, -, rfl⟩ := readByte_ok hr
      refine ih (registersFit_put (registersFit_advanceBits h h8) b ?_) ?_ ht
      · show s.outPos < s.outCap; omega
      · show s.outPos + 1 + n ≤ s.outCap; omega

/-- A stream's start, inside a chunk, in a range that lies in the chunk (43_zlib_adler.md R300, R301). -/
theorem registersFit_startStream {s : State} (h : RegistersFit s) (hc : inChunk s.seq s.phase = true) {ps cap : Nat}
    (hps : ps ≤ s.chunkEnd) (hcap : cap < 2 ^ 64) : RegistersFit (startStream ps s.chunkEnd cap s) :=
  { registersFit_goTo h hc .zHdr .head with
    brRange := ⟨hps, h.chunk.2⟩
    brPos := Nat.zero_le _
    outPos := Nat.zero_le _
    outCap := hcap
    adler := ⟨(by decide : 1 < 65521), (by decide : 0 < 65521)⟩ }

/-! ## Code lengths and tables -/

theorem registersFit_putLength {s : State} (h : RegistersFit s) {v : Nat} (hv : v ≤ 15) :
    RegistersFit { s with lens := s.lens.set s.lensN v, lensN := s.lensN + 1 } :=
  { h with
    lens := ⟨by rw [List.length_set]; exact h.lens.1, fun x hx => by
      rcases List.mem_or_eq_of_mem_set hx with hx | rfl
      · exact h.lens.2 x hx
      · exact hv⟩ }

theorem registersFit_setRun {s : State} (h : RegistersFit s) {v : Nat} (hv : v ≤ 15) (r : Nat) :
    RegistersFit { s with lens := setRun v r s.lensN s.lens, lensN := s.lensN + r } :=
  { h with
    lens := ⟨by rw [setRun_length]; exact h.lens.1, fun x hx => by
      rcases setRun_mem hx with hx | rfl
      · exact h.lens.2 x hx
      · exact hv⟩ }

theorem registersFit_clLen {s : State} (h : RegistersFit s) (len : BitVec 3) :
    RegistersFit { s with clLens := s.clLens.set (clOrder.getD s.clI 0) len.toNat, clI := s.clI + 1 } :=
  { h with
    clLens := ⟨by rw [List.length_set]; exact h.clLens.1, fun x hx => by
      rcases List.mem_or_eq_of_mem_set hx with hx | rfl
      · exact h.clLens.2 x hx
      · omega⟩ }

theorem hlitOperand_le (f : BitVec 5) : hlitOperand f ≤ 288 := by unfold hlitOperand; omega

theorem hdistOperand_le (f : BitVec 5) : hdistOperand f ≤ 32 := by unfold hdistOperand; omega

theorem hclenOperand_le (f : BitVec 4) : hclenOperand f ≤ 19 := by unfold hclenOperand; omega

/-- The counts of a dynamic header, and a cleared CL_LEN (42_inflate.md R213, R214). -/
theorem registersFit_dynHdr {s : State} (h : RegistersFit s) (hc : inChunk s.seq s.phase = true) (hlit hdist : BitVec 5)
    (hclen : BitVec 4) : RegistersFit { s with
      hlit := hlitOperand hlit, hdist := hdistOperand hdist, hclen := hclenOperand hclen
      clLens := List.replicate Config.clSyms 0, clI := 0
      seq := .dynCl, phase := .head } :=
  { registersFit_goTo h hc .dynCl .head with
    hlit := hlitOperand_le hlit
    hdist := hdistOperand_le hdist
    hclen := hclenOperand_le hclen
    clLens := ⟨List.length_replicate, fun v hv => by rw [List.eq_of_mem_replicate hv]; exact Nat.zero_le 7⟩ }

/-- Every length in LENS is a code length (10_state.md R44). -/
theorem lens_getD_le {s : State} (h : RegistersFit s) (i : Nat) : s.lens.getD i 0 ≤ 15 := by
  rcases getD_mem_or s.lens i with hm | h0
  · exact h.lens.2 _ hm
  · omega

theorem registersFit_blockTables {s : State} (h : RegistersFit s) (hc : inChunk s.seq s.phase = true) {lit dist : Table}
    (hl : TableBuilt 288 lit) (hd : TableBuilt 32 dist) :
    RegistersFit { s with litTab := lit, distTab := dist, seq := .symbols, phase := .head } :=
  { registersFit_goTo h hc .symbols .head with tables := ⟨hl, hd, h.tables.2.2⟩ }

/-! ## The walk -/

theorem chunkCount_lt (legacy : Half) (newCount : Word) : chunkCount legacy newCount < 2 ^ 32 := by
  unfold chunkCount
  split <;> omega

theorem celOffset_range (x : Half) : -2 ^ 15 ≤ celOffset x ∧ celOffset x < 2 ^ 15 := by
  unfold celOffset
  exact ⟨by have := BitVec.le_toInt x; simpa using this, by have := BitVec.toInt_lt (x := x); simpa using this⟩

/-- The end of a chunk moves CUR to CHUNK_END, in the frame (44_container.md R345). -/
theorem registersFit_endChunk {s : State} (h : RegistersFit s) (hc : inChunk s.seq s.phase = true) :
    RegistersFit (endChunk s) :=
  have hf := inFrame_of_inChunk hc
  have hframe := h.curInFrame hf.1 hf.2
  have hchunk := h.curInChunk hc
  { h with
    cur := h.chunk.2
    curInFile := fun _ => hchunk.2.trans hframe.2
    curInFrame := fun _ _ => ⟨hchunk.2, hframe.2⟩
    curInChunk := nofun
    chunksLeft := lt_of_le_of_lt (Nat.sub_le _ _) h.chunksLeft }

theorem registersFit_endBlock {s : State} (h : RegistersFit s) (hc : inChunk s.seq s.phase = true) :
    RegistersFit (endBlock s) :=
  registersFit_goTo h hc _ _

/-- The frame loop goes on at a frame header, CUR in the file, or leaves the walk (44_container.md R339). -/
theorem registersFit_frameLoop {s : State} (h : RegistersFit s) (hfile : s.cur ≤ s.fileSize) (f : Nat) :
    RegistersFit (frameLoop f s) := by
  rcases frameLoop_cases f s with ⟨hlt, he⟩ | ⟨-, he⟩
  · rw [he]
    exact { h with
      frameIdx := hlt.trans h.nframes
      curInFile := fun _ => hfile
      curInFrame := fun _ hne => absurd rfl hne
      curInChunk := nofun }
  · rw [he]
    refine registersFit_leave h ?_ .head
    split <;> rfl

theorem frameLoop_cur (f : Nat) (s : State) : (frameLoop f s).cur = s.cur := by
  rcases frameLoop_cases f s with ⟨-, he⟩ | ⟨-, he⟩
  · rw [he]
  · rw [he, afterFrames_cur]

/-! ## Answers -/

/-- The answer is a next state whose registers fit, and within the walk of the frames CUR has not gone back (10_state.md
R35). -/
def StaysFit (s : State) (o : Answer) : Prop :=
  ∃ t, o = .next t ∧ RegistersFit t ∧ (inFrame s.seq = true → inFrame t.seq = true → s.cur ≤ t.cur)

theorem staysFit_next {s t : State} (ht : RegistersFit t) (hcur : t.cur = s.cur) : StaysFit s (.next t) :=
  ⟨t, rfl, ht, fun _ _ => hcur.ge⟩

theorem staysFit_raise {s t : State} (ht : RegistersFit t) (c : Cause) : StaysFit s (raise c t) :=
  ⟨failEntry c t, rfl, registersFit_failEntry ht c, fun _ hf => by cases hf⟩

theorem staysFit_endChunk {s : State} (h : RegistersFit s) (hc : inChunk s.seq s.phase = true) :
    StaysFit s (.next (endChunk s)) :=
  ⟨_, rfl, registersFit_endChunk h hc, fun _ _ => (h.curInChunk hc).1⟩

theorem StaysFit.of_eq {s : State} {o o' : Answer} (he : o = o') (ho : StaysFit s o') : StaysFit s o := he ▸ ho

/-! ## Tokens -/

theorem staysFit_putRun {s : State} (h : RegistersFit s) {v : Nat} (hv : v ≤ 15) (r : Nat) :
    StaysFit s (putRun v r s) := by
  rcases putRun_cases v r s with ⟨-, he⟩ | ⟨-, he⟩
  · exact .of_eq he (staysFit_raise h _)
  · exact .of_eq he (staysFit_next (registersFit_setRun h hv r) rfl)

theorem staysFit_finishMatch {s : State} (h : RegistersFit s) (hc : inChunk s.seq s.phase = true) (sym extra : Nat) :
    StaysFit s (finishMatch sym extra s) := by
  rcases finishMatch_cases sym extra s with ⟨-, he⟩ | ⟨-, -, he⟩ | ⟨-, hlen, he⟩
  · exact .of_eq he (staysFit_raise h _)
  · exact .of_eq he (staysFit_raise h _)
  · have hpos := h.outPos
    have hcopy := registersFit_matchCopy h (distanceOperand sym extra) (n := s.matchLen) (by omega)
    obtain ⟨hseq, hphase, hcur⟩ := matchCopy_walk (distanceOperand sym extra) s.matchLen s
    exact .of_eq he (staysFit_next (registersFit_goTo hcopy (by rw [hseq, hphase]; exact hc) _ _) hcur)

/-- The walk starts behind the file header, in a file that holds it (44_container.md R334 to R339). -/
theorem staysFit_execFileHdr {s : State} (h : RegistersFit s) (hseq : s.seq = .fileHdr) (size : Word)
    (magic nframes width height depth : Half) (tkey : Byte) :
    StaysFit s (execFileHdr size magic nframes width height depth tkey s) := by
  have hout : inFrame s.seq = false := by rw [hseq]; rfl
  have hno {p : Prop} (hf : inFrame s.seq = true) : p := by cases hout.symm.trans hf
  have hfields : RegistersFit (headerFields size nframes width height depth tkey s) :=
    { h with
      curInFile := hno
      curInFrame := hno
      fileSize := size.isLt
      nframes := nframes.isLt
      canvas := ⟨width.isLt, height.isLt⟩
      depth := ⟨depth.isLt, h.depth.2⟩ }
  rcases execFileHdr_cases size magic nframes width height depth tkey s with ⟨c, he⟩ | ⟨bpp, hbpp, hsize, he⟩
  · exact .of_eq he (staysFit_raise hfields c)
  have hdepth : RegistersFit { headerFields size nframes width height depth tkey s with bpp := bpp } :=
    { hfields with depth := ⟨depth.isLt, by show bpp < 2 ^ 3; omega⟩ }
  rcases he with he | he
  · exact .of_eq he (staysFit_raise hdepth _)
  · refine .of_eq he ⟨_, rfl, registersFit_frameLoop ?_ hsize 0, hno⟩
    exact { hdepth with
      curInFile := hno
      curInFrame := hno
      curInChunk := fun hc => hno (inFrame_of_inChunk hc).1
      cur := by show Config.headerSize < 2 ^ 32; decide
      palCount := ⟨h.palCount.1, Nat.zero_le _⟩ }

theorem staysFit_execFrameHdr {s : State} (h : RegistersFit s) (bytes : Word) (magic legacy duration : Half)
    (newCount : Word) : StaysFit s (execFrameHdr bytes magic legacy duration newCount s) := by
  have henter : RegistersFit (enterFrame s) := { h with frame := ⟨h.cur, h.frame.2⟩ }
  have hfile := h.fileSize
  rcases execFrameHdr_cases bytes magic legacy duration newCount s with ⟨c, he⟩ | ⟨hmin, hmax, he⟩
  · exact .of_eq he (staysFit_raise henter c)
  · refine .of_eq he ⟨_, rfl, ?_, fun _ _ => Nat.le_add_right _ _⟩
    exact { henter with
      cur := by show s.cur + Config.frameHdrSize < 2 ^ 32; omega
      curInFile := fun _ => by show s.cur + Config.frameHdrSize ≤ s.fileSize; omega
      curInFrame := fun _ _ => ⟨Nat.add_le_add_left hmin _, hmax⟩
      curInChunk := nofun
      frame := ⟨h.cur, lt_of_le_of_lt hmax hfile⟩
      chunksLeft := chunkCount_lt legacy newCount }

theorem staysFit_execChunkHdr {s : State} (h : RegistersFit s) (hseq : s.seq = .chunkHdr) (size : Word) (type : Half) :
    StaysFit s (execChunkHdr size type s) := by
  have henter : RegistersFit (enterChunk s) := { h with chunk := ⟨h.cur, h.chunk.2⟩ }
  have hf : inFrame s.seq = true := by rw [hseq]; rfl
  have hframe := h.curInFrame hf (by rw [hseq]; nofun)
  rcases execChunkHdr_cases size type s with he | ⟨hmax, he⟩
  · exact .of_eq he (staysFit_raise henter _)
  · refine .of_eq he (staysFit_next ?_ rfl)
    exact { henter with
      curInFile := fun _ => h.curInFile hf
      curInFrame := fun _ _ => hframe
      curInChunk := fun _ => ⟨Nat.le_add_right _ _, hmax⟩
      chunk := ⟨h.cur, lt_of_le_of_lt hmax h.frame.2⟩ }

/-- A tile of u16 sides and at most 7 bytes a pixel has a size of 64 bits. -/
theorem tileSize_lt {w h bpp : Nat} (hw : w < 2 ^ 16) (hh : h < 2 ^ 16) (hb : bpp < 2 ^ 3) : w * h * bpp < 2 ^ 64 :=
  calc w * h * bpp < 2 ^ 16 * 2 ^ 16 * 2 ^ 3 := Nat.mul_lt_mul'' (Nat.mul_lt_mul'' hw hh) hb
    _ < 2 ^ 64 := by decide

theorem staysFit_execCelCompressed {s : State} (h : RegistersFit s) (hc : inChunk s.seq s.phase = true)
    (hbody : s.chunkStart + 26 ≤ s.chunkEnd) (w height : Half) : StaysFit s (execCelCompressed w height s) := by
  have hsize : RegistersFit { s with celW := w.toNat, celH := height.toNat } :=
    { h with celSize := ⟨w.isLt, height.isLt⟩ }
  rcases execCelCompressed_cases w height s with ⟨c, he⟩ | he
  · exact .of_eq he (staysFit_raise hsize c)
  · exact .of_eq he (staysFit_next
      (registersFit_startStream hsize hc hbody (tileSize_lt w.isLt height.isLt h.depth.2)) rfl)

theorem staysFit_execStoredHdr {s : State} (h : RegistersFit s) (hc : inChunk s.seq s.phase = true) (len nlen : Half) :
    StaysFit s (execStoredHdr len nlen s) := by
  rcases execStoredHdr_cases len nlen s with ⟨c, he⟩ | ⟨t, hroom, ht, he⟩
  · exact .of_eq he (staysFit_raise h c)
  · have hpos := h.outPos
    have hcopy := registersFit_storedCopy h (by omega) ht
    obtain ⟨hseq, hphase, hcur⟩ := storedCopy_walk ht
    exact .of_eq he (staysFit_next (registersFit_endBlock hcopy (by rw [hseq, hphase]; exact hc)) hcur)

/-- A token at its place keeps the registers in their widths and ranges; a cel's size stands before its stream. -/
theorem staysFit_exec {i : Instr} {s : State} (h : RegistersFit s) (hp : AtPlace (siteOf i) s)
    (hcel : ∀ w height, i = .celCompressed w height → s.chunkStart + 26 ≤ s.chunkEnd) : StaysFit s (exec i s) := by
  induction i using Instr.byMeaning with
  | codeLength i v hv _ he => exact .of_eq (he s) (staysFit_next (registersFit_putLength h hv) rfl)
  | zeroRun i r _ he => exact .of_eq (he s) (staysFit_putRun h (Nat.zero_le _) r)
  | length i sym extra hsite he =>
    have hc := hp.body (by rw [hsite]; rfl)
    exact .of_eq (he s) (staysFit_next { registersFit_goTo h hc .symbols .tail with } rfl)
  | distance i sym extra hsite he =>
    exact .of_eq (he s) (staysFit_finishMatch h (hp.body (by rw [hsite]; rfl)) sym extra)
  | moves i seq hsite _ he =>
    have hc := hp.body (by rcases hsite with hs | hs | hs <;> (rw [hs]; rfl))
    exact .of_eq (he s) (staysFit_next (registersFit_goTo h hc seq .head) rfl)
  | fails i c he => exact .of_eq (he s) (staysFit_raise h c)
  | fileHdr => exact staysFit_execFileHdr h (hp.fileHdr rfl) ..
  | frameHdr => exact staysFit_execFrameHdr h ..
  | chunkHdr => exact staysFit_execChunkHdr h (hp.chunkHdr rfl) ..
  | chunkPalette count first last =>
    rcases execChunkPalette_cases count first last s with he | ⟨hcount, he⟩
    · exact .of_eq he (staysFit_raise h _)
    · exact .of_eq he (staysFit_next
        { registersFit_goTo h (hp.body rfl) .palette .head with palCount := ⟨hcount, h.palCount.2⟩ } rfl)
  | chunkCel x y =>
    have hoffset : RegistersFit { s with celX := celOffset x, celY := celOffset y } :=
      { h with celOffset := ⟨(celOffset_range x).1, (celOffset_range x).2, celOffset_range y⟩ }
    rcases execChunkCel_cases x y s with he | he
    · exact .of_eq he (staysFit_raise hoffset _)
    · exact .of_eq he (staysFit_next (registersFit_goTo hoffset (hp.body rfl) .cel .head) rfl)
  | chunkTags n => exact staysFit_next { registersFit_goTo h (hp.body rfl) .tags .head with } rfl
  | chunkSlice nkeys flags label =>
    rcases execChunkSlice_cases nkeys flags label s with ⟨c, he⟩ | he
    · exact .of_eq he (staysFit_raise h c)
    · exact .of_eq he (staysFit_next { registersFit_goTo h (hp.body rfl) .slice .head with } rfl)
  | palEntry | tagRec => exact staysFit_next { h with } rfl
  | celCompressed w height => exact staysFit_execCelCompressed h (hp.body rfl) (hcel w height rfl) w height
  | sliceKey x y w height =>
    have hslices : RegistersFit { s with slices := s.slices ++
        [{ label := s.sliceLabel, x := sliceCoord x, y := sliceCoord y, w := w, h := height }] } := { h with }
    exact staysFit_endChunk hslices (hp.body rfl)
  | zlibHdr cmf flg =>
    rcases execZlibHdr_cases cmf flg s with he | he <;>
      exact .of_eq he (staysFit_next (registersFit_goTo h (hp.body rfl) _ _) rfl)
  | adler32Trailer adler =>
    rcases execAdler32Trailer_cases adler s with ⟨c, he⟩ | he
    · exact .of_eq he (staysFit_raise h c)
    · exact .of_eq he (staysFit_next (registersFit_goTo h (hp.body rfl) .blit .head) rfl)
  | blkHdr bfinal btype => exact staysFit_next { registersFit_goTo h (hp.body rfl) .blkHdr .tail with } rfl
  | storedHdr len nlen => exact staysFit_execStoredHdr h (hp.body rfl) len nlen
  | dynHdr hlit hdist hclen => exact staysFit_next (registersFit_dynHdr h (hp.body rfl) hlit hdist hclen) rfl
  | clLen len => exact staysFit_next (registersFit_clLen h len) rfl
  | clRep16 extra =>
    rcases execClRep16_cases extra s with he | he
    · exact .of_eq he (staysFit_raise h _)
    · exact .of_eq he (staysFit_putRun h (lens_getD_le h _) _)
  | lit b =>
    rcases execLit_cases b s with he | ⟨hroom, he⟩
    · exact .of_eq he (staysFit_raise h _)
    · exact .of_eq he (staysFit_next (registersFit_put h b hroom) rfl)
  | eob => exact staysFit_next (registersFit_endBlock h (hp.body rfl)) rfl
  | start => exact absurd rfl hp.engine

/-! ## The engine and the host -/

theorem registersFit_enterSite {s : State} (h : RegistersFit s) (site : Site) : RegistersFit (enterSite site s) := by
  cases site with
  | frameHdr => exact { h with frame := ⟨h.cur, h.frame.2⟩ }
  | chunkHdr => exact { h with chunk := ⟨h.cur, h.chunk.2⟩ }
  | storedHdr | trailer => exact registersFit_byteAlign h
  | _ => exact h

/-- A token's own bits are bits of its place, so the cursors stay in their ranges. -/
theorem registersFit_moveCursor {s : State} (h : RegistersFit s) {site : Site} {n : Nat}
    (hn : n ≤ (siteBits site s).length) : RegistersFit (moveCursor site n s) := by
  cases site with
  | chunkType | palEntry | tagRec | sliceKey => exact { h with }
  | fileHdr | frameHdr | chunkHdr | celType | blkType | ctrl => exact h
  | zlibHdr | dictId | trailer | blkHdr | storedHdr | dynHdr | clLen | clSym _ | litSym | distSym =>
    exact registersFit_advanceBits h (hn.trans_eq (bitStream_length s))

/-- The size of a cel is read inside its chunk, so the stream behind it begins there (44_container.md R362, R366). -/
theorem celCompressed_inChunk {s : State} {T : Table} {rest : Bits} {w height : Half} {site : Site}
    (hd : decode site T (siteBits site s) = .ok (.celCompressed w height, rest)) :
    site = .celType ∧ s.chunkStart + 26 ≤ s.chunkEnd := by
  have hsite : site = .celType := by
    have hs := siteOf_of_decode hd
    cases site with
    | celType => rfl
    | _ => cases hs
  subst hsite
  have hlen := decodeCelType_celCompressed hd
  simp only [siteBits, byteBits, bitsOfBytes_length, inBytes_length] at hlen
  exact ⟨rfl, by omega⟩

theorem staysFit_rejected {s : State} {site : Site} {r : Reject} (h : RegistersFit s)
    (hc : r = .noHeader → inChunk s.seq s.phase = true) : StaysFit s (rejected site r s) := by
  cases r with
  | short => exact staysFit_raise h _
  | badSymbol => exact staysFit_raise h _
  | noHeader => exact staysFit_next (registersFit_goTo h (hc rfl) .blkHdr .head) rfl
  | noStart => exact staysFit_next h rfl

/-- No chunk is left: CUR stays in the frame (44_container.md R346). -/
theorem staysFit_seqChunksDone {s : State} (h : RegistersFit s) (hseq : s.seq = .chunkHdr) :
    StaysFit s (seqChunksDone s) := by
  have hf : inFrame s.seq = true := by rw [hseq]; rfl
  exact staysFit_next
    { h with
      curInFile := fun _ => h.curInFile hf
      curInFrame := fun _ _ => h.curInFrame hf (by rw [hseq]; nofun)
      curInChunk := nofun } rfl

theorem staysFit_seqFrameEndCheck {s : State} (h : RegistersFit s) (hseq : s.seq = .frameEndCheck) :
    StaysFit s (seqFrameEndCheck s) := by
  rcases seqFrameEndCheck_cases s with he | he
  · exact .of_eq he (staysFit_raise h _)
  · have hfile := h.curInFile (by rw [hseq]; rfl)
    exact .of_eq he (staysFit_next (registersFit_frameLoop h hfile _) (frameLoop_cur _ s))

theorem staysFit_seqFixedSetup {s : State} (h : RegistersFit s) (hc : inChunk s.seq s.phase = true) :
    StaysFit s (seqFixedSetup s) := by
  rcases seqFixedSetup_cases s with ⟨c, he⟩ | ⟨lit, dist, hlit, hdist, he⟩
  · exact .of_eq he (staysFit_raise h c)
  · exact .of_eq he (staysFit_next (registersFit_blockTables h hc (.inr ⟨_, _, hlit⟩) (.inr ⟨_, _, hdist⟩)) rfl)

theorem staysFit_seqClTable {s : State} (h : RegistersFit s) (hc : inChunk s.seq s.phase = true) :
    StaysFit s (seqClTable s) := by
  rcases seqClTable_cases s with ⟨c, he⟩ | ⟨T, hT, he⟩
  · exact .of_eq he (staysFit_raise h c)
  · have htables : RegistersFit { s with clTab := T, lensN := 0 } :=
      { h with tables := ⟨h.tables.1, h.tables.2.1, .inr ⟨_, _, hT⟩⟩ }
    exact .of_eq he (staysFit_next (registersFit_goTo htables hc .dynLens .head) rfl)

theorem staysFit_seqBlockTables {s : State} (h : RegistersFit s) (hc : inChunk s.seq s.phase = true) :
    StaysFit s (seqBlockTables s) := by
  rcases seqBlockTables_cases s with ⟨c, he⟩ | ⟨lit, dist, hlit, hdist, he⟩
  · exact .of_eq he (staysFit_raise h c)
  · exact .of_eq he (staysFit_next (registersFit_blockTables h hc (.inr ⟨_, _, hlit⟩) (.inr ⟨_, _, hdist⟩)) rfl)

theorem staysFit_sequence {s : State} (h : RegistersFit s) : StaysFit s (sequence s) := by
  have hbody {seq : Seq} (hseq : s.seq = seq) (hc : ∀ phase, inChunk seq phase = true) :
      inChunk s.seq s.phase = true := by rw [hseq]; exact hc _
  unfold sequence
  cases hseq : s.seq with
  | chunkHdr => exact staysFit_seqChunksDone h hseq
  | palette =>
    have hcount : RegistersFit { s with palCount := s.palNew } := { h with palCount := ⟨h.palCount.1, h.palCount.1⟩ }
    exact staysFit_endChunk hcount (hbody hseq fun _ => rfl)
  | tags | skip => exact staysFit_endChunk h (hbody hseq fun _ => rfl)
  | blit =>
    have hblit : RegistersFit (blit s) := { h with }
    exact staysFit_endChunk hblit (hbody hseq fun _ => rfl)
  | frameEndCheck => exact staysFit_seqFrameEndCheck h hseq
  | fixedSetup => exact staysFit_seqFixedSetup h (hbody hseq fun _ => rfl)
  | dynCl => exact staysFit_seqClTable h (hbody hseq fun _ => rfl)
  | dynLens => exact staysFit_seqBlockTables h (hbody hseq fun _ => rfl)
  | flip =>
    have hflip : RegistersFit (flipAtlas s) := { h with }
    exact staysFit_next (registersFit_leave hflip (seq := .done) rfl .head) rfl
  | done => exact staysFit_next (registersFit_publish h) rfl
  | error => exact staysFit_next (registersFit_leave h (seq := .idle) rfl .head) rfl
  | idle | fileHdr | frameHdr | cel | slice | zHdr | blkHdr | stored | dynHdr | symbols | trailer =>
    exact staysFit_next h rfl

/-- Entering a place and passing a token's bits move neither SEQ nor CUR. -/
theorem StaysFit.of_walk {s u : State} {o : Answer} (ho : StaysFit u o) (hseq : u.seq = s.seq) (hcur : u.cur = s.cur) :
    StaysFit s o := by
  obtain ⟨t, he, ht, hmono⟩ := ho
  rw [hseq, hcur] at hmono
  exact ⟨t, he, ht, hmono⟩

theorem staysFit_engineStep {s : State} (h : RegistersFit s) : StaysFit s (engineStep s) := by
  cases hsite : nextSite s with
  | none => rw [engineStep_sequence hsite]; exact staysFit_sequence h
  | some site =>
    have henter := registersFit_enterSite h site
    rcases engineStep_cases hsite with ⟨i, rest, hd, hplace, he⟩ | ⟨r, hd, he⟩
    · have hpast := registersFit_moveCursor henter
        (Nat.sub_le (siteBits site (enterSite site s)).length rest.length)
      refine .of_eq he (.of_walk (staysFit_exec hpast hplace ?_) (pastToken_seq ..) (pastToken_cur ..))
      rintro w height rfl
      obtain ⟨rfl, hcel⟩ := celCompressed_inChunk hd
      exact hcel
    · refine .of_eq he (.of_walk (staysFit_rejected henter ?_) (enterSite_seq ..) (enterSite_cur ..))
      rintro rfl
      cases decode_noHeader hd
      exact (nextSite_atPlace hsite).body rfl

theorem registersFit_resetBlock (s : State) : RegistersFit (resetBlock s) where
  brRange := ⟨Nat.le_refl 0, Nat.two_pow_pos 32⟩
  brPos := Nat.zero_le _
  outPos := Nat.zero_le _
  outCap := Nat.two_pow_pos 64
  hlit := Nat.zero_le _
  hdist := Nat.zero_le _
  hclen := Nat.zero_le _
  clLens := ⟨List.length_replicate, fun v hv => by rw [List.eq_of_mem_replicate hv]; exact Nat.zero_le 7⟩
  lens := ⟨List.length_replicate, fun v hv => by rw [List.eq_of_mem_replicate hv]; exact Nat.zero_le 15⟩
  adler := ⟨Nat.succ_pos _, Nat.succ_pos _⟩
  cur := Nat.two_pow_pos 32
  curInFile := nofun
  curInFrame := nofun
  curInChunk := nofun
  fileSize := Nat.two_pow_pos 32
  nframes := Nat.two_pow_pos 16
  canvas := ⟨Nat.two_pow_pos 16, Nat.two_pow_pos 16⟩
  depth := ⟨Nat.two_pow_pos 16, Nat.two_pow_pos 3⟩
  frameIdx := Nat.two_pow_pos 16
  frame := ⟨Nat.two_pow_pos 32, Nat.two_pow_pos 32⟩
  chunksLeft := Nat.two_pow_pos 32
  chunk := ⟨Nat.two_pow_pos 32, Nat.two_pow_pos 32⟩
  celOffset := by show -2 ^ 15 ≤ (0 : Int) ∧ (0 : Int) < 2 ^ 15 ∧ -2 ^ 15 ≤ (0 : Int) ∧ (0 : Int) < 2 ^ 15; decide
  celSize := ⟨Nat.two_pow_pos 16, Nat.two_pow_pos 16⟩
  palCount := ⟨Nat.zero_le _, Nat.zero_le _⟩
  errOffset := Nat.two_pow_pos 32
  tables := ⟨.inl rfl, .inl rfl, .inl rfl⟩

/-- A host action leaves the walk or lets it stand. -/
theorem registersFit_hostMove {s t : State} (h : RegistersFit s) (ht : HostMove s t) :
    RegistersFit t ∧ (inFrame s.seq = true → inFrame t.seq = true → s.cur ≤ t.cur) := by
  cases ht with
  | same => exact ⟨h, fun _ _ => Nat.le_refl _⟩
  | flip b => exact ⟨{ h with }, fun _ _ => Nat.le_refl _⟩
  | start b =>
    exact ⟨{ registersFit_leave h (seq := .fileHdr) rfl .head with errOffset := Nat.two_pow_pos 32 },
      fun _ hf => by cases hf⟩
  | inLen v => exact ⟨{ h with }, fun _ _ => Nat.le_refl _⟩
  | input m => exact ⟨{ h with }, fun _ _ => Nat.le_refl _⟩
  | read v => exact ⟨{ h with }, fun _ _ => Nat.le_refl _⟩
  | reset => exact ⟨registersFit_resetBlock s, fun _ hf => by cases hf⟩

/-- Settles O54: every step is a host move or a step of the engine, and the engine's tokens, rejections and moves each
stay fit. -/
theorem registersFitKept : Obligations.RegistersFitKept := by
  unfold Obligations.RegistersFitKept
  intro s t h hstep
  obtain ⟨rest, hnext⟩ := step_next hstep
  have hrest : RegistersFit { s with host := rest } := { h with }
  rcases hnext with hengine | hmove
  · obtain ⟨u, hu, hfit⟩ := staysFit_engineStep hrest
    cases hu.symm.trans hengine
    exact hfit
  · obtain ⟨hfit, hcur⟩ := registersFit_hostMove hrest hmove
    exact ⟨hfit, hcur⟩

end Sys2Proof.Machine
end

section
/-! SUPPORT. What every next state of an answer satisfies, the sequencer state of each place, and the host's part of a
step by its action. -/

namespace Sys2Proof.Machine

/-- Every next state the answer can be satisfies `P`. -/
structure Ensures (P : State → Prop) (o : Answer) : Prop where
  holds : ∀ t, o = .next t → P t

theorem Ensures.next {P : State → Prop} {t : State} (h : P t) : Ensures P (.next t) :=
  ⟨by rintro _ ⟨⟩; exact h⟩

theorem Ensures.of_eq {P : State → Prop} {o o' : Answer} (he : o = o') (ho : Ensures P o') : Ensures P o := he ▸ ho

/-- The sequencer state in which a place's tokens are read (10_state.md R33). -/
def siteSeq : Site → Seq
  | .fileHdr => .fileHdr
  | .frameHdr => .frameHdr
  | .chunkHdr | .chunkType => .chunkHdr
  | .palEntry => .palette
  | .celType => .cel
  | .tagRec => .tags
  | .sliceKey => .slice
  | .zlibHdr | .dictId => .zHdr
  | .trailer => .trailer
  | .blkHdr | .blkType => .blkHdr
  | .storedHdr => .stored
  | .dynHdr => .dynHdr
  | .clLen => .dynCl
  | .clSym _ => .dynLens
  | .litSym | .distSym => .symbols
  | .ctrl => .idle

theorem seq_of_nextSite {s : State} {site : Site} (h : nextSite s = some site) : s.seq = siteSeq site := by
  unfold nextSite at h
  split at h <;> try split at h
  all_goals cases h
  all_goals assumption

theorem siteSeq_tokenSite (site : Site) : siteSeq (tokenSite site) = siteSeq site := by cases site <;> rfl

/-- The engine's step keeps what the tokens at their places, the rejections and the sequencer's moves keep. -/
theorem ensures_engineStep {P : State → Prop} {s : State}
    (htoken : ∀ site i n, s.seq = siteSeq (siteOf i) → Ensures P (exec i (pastToken site n s)))
    (hreject : ∀ site r, s.seq = siteSeq site → (r = .noHeader → site = .zlibHdr) →
      Ensures P (rejected site r (enterSite site s)))
    (hmove : Ensures P (sequence s)) : Ensures P (engineStep s) := by
  cases hsite : nextSite s with
  | none => rw [engineStep_sequence hsite]; exact hmove
  | some site =>
    have hseq := seq_of_nextSite hsite
    rcases engineStep_cases hsite with ⟨i, rest, hd, -, he⟩ | ⟨r, hd, he⟩
    · refine .of_eq he (htoken site i _ ?_)
      rw [siteOf_of_decode hd, siteSeq_tokenSite, hseq]
    · refine .of_eq he (hreject site r hseq ?_)
      rintro rfl
      exact decode_noHeader hd

/-- What one step can do, by the host's action. -/
theorem step_act {s t : State} (h : step s = .next t) :
    ∃ rest, engineStep { s with host := rest } = .next t ∨ ∃ op, hostAct op { s with host := rest } = .next t := by
  cases hhost : s.host with
  | nil =>
    refine ⟨[], .inl ?_⟩
    rw [step_engine hhost] at h
    rwa [← hhost]
  | cons op rest =>
    refine ⟨rest, ?_⟩
    by_cases hw : op = .wait
    · subst hw; rw [step_wait hhost] at h; exact .inl h
    · rw [step_host hhost hw] at h; exact .inr ⟨op, h⟩

/-- No register write reaches IN. -/
theorem writeReg_inp {index : Nat} {v : Reg} {s t : State} (h : writeReg index v s = .next t) : t.inp = s.inp := by
  by_cases h0 : index = 0
  · subst h0
    change writeCtrl v s = .next t at h
    rw [writeCtrl_eq] at h
    split at h
    · change execStart (ctrlFlip v) s = .next t at h
      rcases execStart_cases (ctrlFlip v) s with ⟨-, he⟩ | ⟨-, he⟩ <;> cases he.symm.trans h <;> rfl
    · cases h; rfl
  by_cases h4 : index = 4
  · subst h4
    cases hb : busy s with
    | true => cases (writeReg_inLen_busy v hb).symm.trans h; rfl
    | false => cases (writeReg_inLen_idle v hb).symm.trans h; rfl
  · cases (writeReg_other v s h0 h4).symm.trans h; rfl

/-- A read of a result memory changes only what the host last read. -/
theorem hostRead_next {v : Option HostValue} {s t : State} (h : hostRead v s = .next t) :
    t = { s with rx := t.rx } := by
  unfold hostRead at h
  split at h
  · cases h
  split at h <;> cases h
  rfl

/-- IN changes by a write of one byte, and at reset (20_memory.md R70). -/
theorem hostAct_inp {op : HostOp} {s t : State} (h : hostAct op s = .next t) :
    t.inp = s.inp ∨ t.inp = [] ∨ ∃ a b, t.inp = s.inp.write none a b := by
  cases op with
  | wait => cases h; exact .inl rfl
  | writeReg index v => exact .inl (writeReg_inp h)
  | writeIn a b =>
    simp only [hostAct, hostWriteIn] at h
    split at h
    · cases h
    split at h <;> cases h
    exact .inr (.inr ⟨a, b, rfl⟩)
  | readReg index => cases h; exact .inl rfl
  | readAtlas a | readPal a | readDur a | readTag a | readSlice a => rw [hostRead_next h]; exact .inl rfl
  | reset => cases h; exact .inr (.inl rfl)

end Sys2Proof.Machine
end

section
/-! The canonical form of the byte spaces (20_memory.md R70 to R73): what each shared operation and each token leaves in
it, and O52. -/

namespace Sys2Proof.Machine

open Sys2Proof.Safety

/-- A failure empties ATLAS and PAL (60_exceptions.md R405). -/
theorem ensures_memoryForm_raise {c : Cause} {s : State} (hinp : Memory.wf none s.inp = true)
    (htile : Memory.wf none s.tile = true) : Ensures MemoryForm (raise c s) :=
  .next ⟨hinp, htile, Memory.wf_nil _, Memory.wf_nil _⟩

theorem memoryForm_startLoad {s : State} (h : MemoryForm s) : MemoryForm (startLoad s) :=
  ⟨h.inp, h.tile, Memory.wf_nil _, Memory.wf_nil _⟩

theorem memoryForm_put {s : State} (h : MemoryForm s) (b : Byte) : MemoryForm (put b s) :=
  { h with tile := Memory.wf_write h.tile }

theorem memoryForm_matchCopy {s : State} (h : MemoryForm s) (dist n : Nat) : MemoryForm (matchCopy dist n s) := by
  rw [matchCopy_frame]
  exact { h with tile := matchCopy_wf dist n h.tile }

theorem memoryForm_storedCopy {s t : State} {n : Nat} (h : MemoryForm s) (ht : storedCopy n s = .ok t) :
    MemoryForm t := by
  have htile := storedCopy_wf ht h.tile
  rw [(storedCopy_frame ht).2]
  exact { h with tile := htile }

/-- A stream starts with an empty tile (20_memory.md R71). -/
theorem memoryForm_startStream {s : State} {ps pe cap : Nat} (h : MemoryForm s) :
    MemoryForm (startStream ps pe cap s) :=
  { h with tile := Memory.wf_nil _ }

theorem memoryForm_frameLoop {s : State} (h : MemoryForm s) (f : Nat) : MemoryForm (frameLoop f s) := by
  rcases frameLoop_cases f s with ⟨-, he⟩ | ⟨-, he⟩ <;> rw [he] <;> exact { h with }

theorem memoryForm_startWalk {s : State} (h : MemoryForm s) : MemoryForm (startWalk s) :=
  memoryForm_frameLoop (s := { initAtlas s with
    dur := List.replicate s.nframes 0, tags := [], slices := [], palCount := 0, cur := Config.headerSize })
    { h with atlas := fillCells_wf _ _ } 0

theorem memoryForm_blit {s : State} (h : MemoryForm s) : MemoryForm (blit s) :=
  { h with atlas := blitRows_wf s _ h.atlas }

theorem memoryForm_flipAtlas {s : State} (h : MemoryForm s) : MemoryForm (flipAtlas s) :=
  { h with atlas := flipRows_wf _ _ _ h.atlas }

theorem ensures_memoryForm_putRun {s : State} (h : MemoryForm s) (v r : Nat) : Ensures MemoryForm (putRun v r s) := by
  rcases putRun_cases v r s with ⟨-, he⟩ | ⟨-, he⟩
  · exact .of_eq he (ensures_memoryForm_raise h.inp h.tile)
  · exact .of_eq he (.next { h with })

theorem ensures_memoryForm_finishMatch {s : State} (h : MemoryForm s) (sym extra : Nat) :
    Ensures MemoryForm (finishMatch sym extra s) := by
  rcases finishMatch_cases sym extra s with ⟨-, he⟩ | ⟨-, -, he⟩ | ⟨-, -, he⟩
  · exact .of_eq he (ensures_memoryForm_raise h.inp h.tile)
  · exact .of_eq he (ensures_memoryForm_raise h.inp h.tile)
  · exact .of_eq he (.next { memoryForm_matchCopy h _ _ with })

theorem ensures_memoryForm_execFileHdr {s : State} (h : MemoryForm s) (size : Word)
    (magic nframes width height depth : Half) (tkey : Byte) :
    Ensures MemoryForm (execFileHdr size magic nframes width height depth tkey s) := by
  rcases execFileHdr_cases size magic nframes width height depth tkey s with ⟨c, he⟩ | ⟨bpp, -, -, he | he⟩
  · exact .of_eq he (ensures_memoryForm_raise h.inp h.tile)
  · exact .of_eq he (ensures_memoryForm_raise h.inp h.tile)
  · exact .of_eq he (.next (memoryForm_startWalk { h with }))

/-- The meaning of every token keeps the canonical form. -/
theorem ensures_memoryForm_exec {s : State} (h : MemoryForm s) (i : Instr) : Ensures MemoryForm (exec i s) := by
  induction i using Instr.byMeaning with
  | codeLength i v _ _ he => exact .of_eq (he s) (.next { h with })
  | zeroRun i r _ he => exact .of_eq (he s) (ensures_memoryForm_putRun h 0 r)
  | length i sym extra _ he => exact .of_eq (he s) (.next { h with })
  | distance i sym extra _ he => exact .of_eq (he s) (ensures_memoryForm_finishMatch h sym extra)
  | moves i seq _ _ he => exact .of_eq (he s) (.next { h with })
  | fails i c he => exact .of_eq (he s) (ensures_memoryForm_raise h.inp h.tile)
  | fileHdr => exact ensures_memoryForm_execFileHdr h ..
  | frameHdr bytes magic legacy duration newCount =>
    rcases execFrameHdr_cases bytes magic legacy duration newCount s with ⟨c, he⟩ | ⟨-, -, he⟩
    · exact .of_eq he (ensures_memoryForm_raise h.inp h.tile)
    · exact .of_eq he (.next { h with })
  | chunkHdr size type =>
    rcases execChunkHdr_cases size type s with he | ⟨-, he⟩
    · exact .of_eq he (ensures_memoryForm_raise h.inp h.tile)
    · exact .of_eq he (.next { h with })
  | chunkPalette count first last =>
    rcases execChunkPalette_cases count first last s with he | ⟨-, he⟩
    · exact .of_eq he (ensures_memoryForm_raise h.inp h.tile)
    · exact .of_eq he (.next { h with })
  | chunkCel x y =>
    rcases execChunkCel_cases x y s with he | he
    · exact .of_eq he (ensures_memoryForm_raise h.inp h.tile)
    · exact .of_eq he (.next { h with })
  | chunkSlice nkeys flags label =>
    rcases execChunkSlice_cases nkeys flags label s with ⟨c, he⟩ | he
    · exact .of_eq he (ensures_memoryForm_raise h.inp h.tile)
    · exact .of_eq he (.next { h with })
  | palEntry => exact .next { h with pal := Memory.wf_fill 4 h.pal }
  | celCompressed w height =>
    rcases execCelCompressed_cases w height s with ⟨c, he⟩ | he
    · exact .of_eq he (ensures_memoryForm_raise h.inp h.tile)
    · exact .of_eq he (.next (memoryForm_startStream { h with }))
  | zlibHdr cmf flg =>
    rcases execZlibHdr_cases cmf flg s with he | he <;> exact .of_eq he (.next { h with })
  | adler32Trailer adler =>
    rcases execAdler32Trailer_cases adler s with ⟨c, he⟩ | he
    · exact .of_eq he (ensures_memoryForm_raise h.inp h.tile)
    · exact .of_eq he (.next { h with })
  | storedHdr len nlen =>
    rcases execStoredHdr_cases len nlen s with ⟨c, he⟩ | ⟨t, -, ht, he⟩
    · exact .of_eq he (ensures_memoryForm_raise h.inp h.tile)
    · exact .of_eq he (.next { memoryForm_storedCopy h ht with })
  | clRep16 extra =>
    rcases execClRep16_cases extra s with he | he
    · exact .of_eq he (ensures_memoryForm_raise h.inp h.tile)
    · exact .of_eq he (ensures_memoryForm_putRun h _ _)
  | lit b =>
    rcases execLit_cases b s with he | ⟨-, he⟩
    · exact .of_eq he (ensures_memoryForm_raise h.inp h.tile)
    · exact .of_eq he (.next (memoryForm_put h b))
  | chunkTags | tagRec | sliceKey | blkHdr | dynHdr | clLen | eob => exact .next { h with }
  | start flip =>
    have hflip : MemoryForm (writeFlip (flip || ctrlFlip s.ctrl) s) := { h with }
    rcases execStart_cases flip s with ⟨-, he⟩ | ⟨-, he⟩
    · exact .of_eq he (.next hflip)
    · exact .of_eq he (.next (memoryForm_startLoad hflip))

theorem ensures_memoryForm_rejected {s : State} (h : MemoryForm s) (site : Site) (r : Reject) :
    Ensures MemoryForm (rejected site r s) := by
  cases r with
  | short => exact ensures_memoryForm_raise h.inp h.tile
  | badSymbol => exact ensures_memoryForm_raise h.inp h.tile
  | noHeader => exact .next { h with }
  | noStart => exact .next h

theorem ensures_memoryForm_sequence {s : State} (h : MemoryForm s) : Ensures MemoryForm (sequence s) := by
  unfold sequence
  cases s.seq with
  | chunkHdr | palette | tags | skip | done | error => exact .next { h with }
  | blit => exact .next { memoryForm_blit h with }
  | flip => exact .next { memoryForm_flipAtlas h with }
  | frameEndCheck =>
    rcases seqFrameEndCheck_cases s with he | he
    · exact .of_eq he (ensures_memoryForm_raise h.inp h.tile)
    · exact .of_eq he (.next (memoryForm_frameLoop h _))
  | fixedSetup =>
    rcases seqFixedSetup_cases s with ⟨c, he⟩ | ⟨lit, dist, -, -, he⟩
    · exact .of_eq he (ensures_memoryForm_raise h.inp h.tile)
    · exact .of_eq he (.next { h with })
  | dynCl =>
    rcases seqClTable_cases s with ⟨c, he⟩ | ⟨T, -, he⟩
    · exact .of_eq he (ensures_memoryForm_raise h.inp h.tile)
    · exact .of_eq he (.next { h with })
  | dynLens =>
    rcases seqBlockTables_cases s with ⟨c, he⟩ | ⟨lit, dist, -, -, he⟩
    · exact .of_eq he (ensures_memoryForm_raise h.inp h.tile)
    · exact .of_eq he (.next { h with })
  | idle | fileHdr | frameHdr | cel | slice | zHdr | blkHdr | stored | dynHdr | symbols | trailer => exact .next h

theorem memoryForm_enterSite {s : State} (h : MemoryForm s) (site : Site) : MemoryForm (enterSite site s) := by
  cases site <;> exact { h with }

theorem memoryForm_pastToken {s : State} (h : MemoryForm s) (site : Site) (n : Nat) :
    MemoryForm (pastToken site n s) := by
  cases site <;> exact { h with }

theorem ensures_memoryForm_engineStep {s : State} (h : MemoryForm s) : Ensures MemoryForm (engineStep s) :=
  ensures_engineStep (fun site i n _ => ensures_memoryForm_exec (memoryForm_pastToken h site n) i)
    (fun site r _ _ => ensures_memoryForm_rejected (memoryForm_enterSite h site) site r)
    (ensures_memoryForm_sequence h)

/-- A host action writes at most one byte of IN, or leaves the other spaces as they are or empty. -/
theorem memoryForm_hostAct {op : HostOp} {s t : State} (h : MemoryForm s) (ht : hostAct op s = .next t) :
    MemoryForm t := by
  have hinp : Memory.wf none t.inp = true := by
    rcases hostAct_inp ht with he | he | ⟨a, b, he⟩ <;> rw [he]
    · exact h.inp
    · exact Memory.wf_nil _
    · exact Memory.wf_write h.inp
  cases hostAct_hostMove ht with
  | same | flip b | inLen v | read v => exact { h with }
  | input m => exact { h with inp := hinp }
  | start b => exact memoryForm_startLoad { h with }
  | reset => exact ⟨hinp, Memory.wf_nil _, Memory.wf_nil _, Memory.wf_nil _⟩

/-- Settles O52: every step is a host action or a step of the engine, and every token, rejection and move writes the byte
spaces by `Memory.write` or empties them. -/
theorem memoryFormKept : Obligations.MemoryFormKept := by
  unfold Obligations.MemoryFormKept
  intro s t h hstep
  obtain ⟨rest, hnext⟩ := step_act hstep
  have hrest : MemoryForm { s with host := rest } := { h with }
  rcases hnext with hengine | ⟨op, hact⟩
  · exact (ensures_memoryForm_engineStep hrest).holds t hengine
  · exact memoryForm_hostAct hrest hact

end Sys2Proof.Machine
end

section
/-! SUPPORT. Where the bytes of a memory stand: the addresses a write, a run of bytes, the atlas's fill, the placement and
the flip can list; and the arithmetic of rows. -/

namespace Sys2Proof.Machine

/-- Every listed address of the memory lies below `n`. -/
def Memory.ListedBelow (n : Nat) (m : Memory) : Prop := ∀ a b, m.find a = some b → a < n

theorem Memory.listedBelow_nil (n : Nat) : Memory.ListedBelow n [] := nofun

theorem Memory.listedBelow_write {d : Option Byte} {n a : Nat} {b : Byte} {m : Memory} (h : Memory.ListedBelow n m)
    (ha : a < n) : Memory.ListedBelow n (Memory.write d m a b) := by
  intro a' b' hfind
  by_cases heq : a' = a
  · exact heq ▸ ha
  · rw [Memory.find_write_other heq] at hfind
    exact h a' b' hfind

theorem Memory.listedBelow_fill {d : Option Byte} {n dst : Nat} {src : Nat → Byte} {m : Memory}
    (h : Memory.ListedBelow n m) {len : Nat} (hdst : ∀ k < len, dst + k < n) :
    Memory.ListedBelow n (Memory.fill d m dst src len) := by
  induction len with
  | zero => exact h
  | succ len ih =>
    exact Memory.listedBelow_write (ih fun k hk => hdst k (by omega)) (hdst len (by omega))

/-- A run of bytes depends on its bytes alone. -/
theorem Memory.fill_congr {d : Option Byte} {dst : Nat} {src src' : Nat → Byte} {m : Memory} {len : Nat}
    (h : ∀ k < len, src k = src' k) : Memory.fill d m dst src len = Memory.fill d m dst src' len := by
  induction len with
  | zero => rfl
  | succ len ih => simp only [Memory.fill, ih fun k hk => h k (by omega), h len (by omega)]

theorem fillCells_listedBelow (n : Nat) (b : Byte) : Memory.ListedBelow n (fillCells n b) := by
  intro a b' hfind
  unfold fillCells at hfind
  split at hfind
  · cases hfind
  · rw [List.range_eq_range', cells_find] at hfind
    split at hfind
    · omega
    · cases hfind

/-- Byte `x` of row `y` stands in the first `height` rows of `S` bytes. -/
theorem row_lt {y height x S : Nat} (hy : y < height) (hx : x < S) : y * S + x < height * S :=
  calc y * S + x < (y + 1) * S := by rw [Nat.succ_mul]; omega
    _ ≤ height * S := Nat.mul_le_mul_right S hy

theorem swapBytes_listedBelow {a b n N : Nat} {m : Memory} (h : Memory.ListedBelow N m) (ha : ∀ k < n, a + k < N)
    (hb : ∀ k < n, b + k < N) : Memory.ListedBelow N (swapBytes a b n m) := by
  induction n with
  | zero => exact h
  | succ n ih =>
    have hrest := ih (fun k hk => ha k (by omega)) (fun k hk => hb k (by omega))
    exact Memory.listedBelow_write (Memory.listedBelow_write hrest (ha n (by omega))) (hb n (by omega))

/-- The flip stays in its rows (45_atlas.md R384). -/
theorem flipRows_listedBelow {S height rows : Nat} {m : Memory} (h : Memory.ListedBelow (height * S) m)
    (hrows : rows ≤ height) : Memory.ListedBelow (height * S) (flipRows S height rows m) := by
  induction rows with
  | zero => exact h
  | succ rows ih =>
    exact swapBytes_listedBelow (ih (by omega)) (fun k hk => row_lt (by omega) hk) (fun k hk => row_lt (by omega) hk)

/-- The atlas is HEIGHT rows of the stride (45_atlas.md R381). -/
theorem atlasSize_eq_rows (s : State) : atlasSize s = s.height * stride s := by
  unfold atlasSize stride
  ring

end Sys2Proof.Machine
end

section
/-! SUPPORT. The checks behind a cel: what a meaning has checked where it goes on with a cel's offsets, with its stream, and
with its placement. -/

namespace Sys2Proof.Machine

/-- A cel goes on with offsets that are not negative (44_container.md R360). -/
theorem execChunkCel_offsets (x y : Half) (s : State) :
    execChunkCel x y s = raise .negativeCelOffset { s with celX := celOffset x, celY := celOffset y } ∨
    (0 ≤ celOffset x ∧ 0 ≤ celOffset y ∧
      execChunkCel x y s = .next { s with celX := celOffset x, celY := celOffset y, seq := .cel, phase := .head }) := by
  simp only [execChunkCel]
  split
  · exact .inl rfl
  · exact .inr ⟨by omega, by omega, rfl⟩

/-- A stream starts for a tile that lies on the canvas (44_container.md R364). -/
theorem execCelCompressed_canvas (w h : Half) (s : State) :
    (∃ c, execCelCompressed w h s = raise c { s with celW := w.toNat, celH := h.toNat }) ∨
    (s.celX + w.toNat ≤ s.width ∧ s.celY + h.toNat ≤ s.height ∧
      execCelCompressed w h s = .next (startStream (s.chunkStart + 26) s.chunkEnd (w.toNat * h.toNat * s.bpp)
        { s with celW := w.toNat, celH := h.toNat })) := by
  simp only [execCelCompressed]
  split
  · exact .inl ⟨_, rfl⟩
  split
  · exact .inl ⟨_, rfl⟩
  · exact .inr ⟨by omega, by omega, rfl⟩

/-- A tile is placed when it is full (43_zlib_adler.md R308). -/
theorem execAdler32Trailer_full (adler : Word) (s : State) :
    (∃ c, execAdler32Trailer adler s = raise c s) ∨
    (s.outPos = s.outCap ∧ execAdler32Trailer adler s = .next { s with seq := .blit, phase := .head }) := by
  unfold execAdler32Trailer
  split
  · exact .inl ⟨_, rfl⟩
  split
  · exact .inl ⟨_, rfl⟩
  · exact .inr ⟨by omega, rfl⟩

/-- The tokens that only choose a block's kind, or pass the dictionary id, lead to no placement. -/
theorem exec_seq_ne_blit {i : Instr} {s t : State} (hsite : siteOf i = .dictId ∨ siteOf i = .blkType)
    (h : exec i s = .next t) : t.seq ≠ .blit := by
  cases i with
  | zlibDictid | blkStored | blkFixed | blkDynamic | blkReserved => cases h; nofun
  | _ => rcases hsite with hs | hs <;> cases hs

end Sys2Proof.Machine
end

section
/-! The tile and the atlas (20_memory.md R71, R72; 45_atlas.md R382): what each shared operation and each token leaves
where it may stand, and O55. -/

namespace Sys2Proof.Machine

open Sys2Proof.Safety

/-- The tile holds exactly the bytes below OUT_POS (20_memory.md R71). -/
def TileWritten (s : State) : Prop := ∀ a, (∃ b, s.tile.find a = some b) ↔ a < s.outPos

/-- What the atlas's form asks of a state in a frame, wherever in the frame it is: the tile, the atlas of the header's
size, and one duration a frame. -/
structure FrameForm (s : State) : Prop where
  tileWritten : TileWritten s
  atlasListed : s.atlas.ListedBelow s.atlasLen
  atlasLen : s.atlasLen = atlasSize s
  bpp : s.bpp = 1 ∨ s.bpp = 4
  dur : s.dur.length = s.nframes

theorem frameForm_of_inFrame {s : State} (h : AtlasForm s) (hf : inFrame s.seq = true) : FrameForm s :=
  ⟨h.tileWritten, h.atlasListed, h.atlasLen (.inl hf), h.bpp hf, (h.frame hf).2⟩

/-- Outside a cel nothing is asked beyond the frame's form. -/
theorem FrameForm.atlasForm {s : State} (h : FrameForm s) (hidx : inFrame s.seq = true → s.frameIdx < s.nframes)
    (hcel : s.seq ≠ .cel) (hout : inStream s.seq = false) : AtlasForm s where
  tileWritten := h.tileWritten
  atlasListed := h.atlasListed
  atlasLen _ := h.atlasLen
  bpp _ := h.bpp
  frame hf := ⟨hidx hf, h.dur⟩
  offset hs := by
    rcases hs with hs | hs
    · exact absurd hs hcel
    · cases hout.symm.trans hs
  canvas hs := by cases hout.symm.trans hs
  capacity hs := by cases hout.symm.trans hs
  full hs := by rw [hs] at hout; cases hout

theorem inFrame_of_inStream {seq : Seq} (h : inStream seq = true) : inFrame seq = true := by
  cases seq <;> simp_all [inStream, inFrame]

/-- Outside the frames only the tile and the atlas's bound are asked for, and the atlas's size up to the publication. -/
theorem atlasForm_leave {s : State} (htile : TileWritten s) (hlisted : s.atlas.ListedBelow s.atlasLen) (seq : Seq)
    (phase : Phase) (hout : inFrame seq = false) (hflip : seq = .flip → s.atlasLen = atlasSize s)
    (hdone : seq = .done → s.atlasLen = atlasSize s) :
    AtlasForm { s with seq := seq, phase := phase } :=
  have hno {p : Prop} (hf : inFrame seq = true) : p := by cases hout.symm.trans hf
  { tileWritten := htile
    atlasListed := hlisted
    atlasLen := fun hs => hs.elim hno fun hs => hs.elim hflip hdone
    bpp := hno
    frame := hno
    offset := fun hs => hno (hs.elim (congrArg inFrame) inFrame_of_inStream)
    canvas := fun hs => hno (inFrame_of_inStream hs)
    capacity := fun hs => hno (inFrame_of_inStream hs)
    full := fun hs => hno (congrArg inFrame hs) }

/-- A failure empties the atlas (60_exceptions.md R405). -/
theorem ensures_atlasForm_raise {c : Cause} {s : State} (h : TileWritten s) : Ensures AtlasForm (raise c s) :=
  .next (atlasForm_leave (s := failEntry c s) h (Memory.listedBelow_nil _) .idle .head rfl nofun nofun)

theorem atlasForm_startLoad {s : State} (h : TileWritten s) : AtlasForm (startLoad s) :=
  atlasForm_leave (s := startLoad s) h (Memory.listedBelow_nil _) .fileHdr .head rfl nofun nofun

/-- In a frame the sequencer may go on at any state of the frame outside a cel. -/
theorem atlasForm_goTo {s : State} (h : AtlasForm s) (hf : inFrame s.seq = true) (seq : Seq) (phase : Phase)
    (hcel : seq ≠ .cel) (hout : inStream seq = false) : AtlasForm { s with seq := seq, phase := phase } :=
  have hframe := frameForm_of_inFrame h hf
  FrameForm.atlasForm { hframe with } (fun _ => (h.frame hf).1) hcel hout

/-- In a cel's stream the sequencer may go on anywhere, but to the placement only with a full tile. -/
theorem atlasForm_goOn {s : State} (h : AtlasForm s) (hs : inStream s.seq = true) (seq : Seq) (phase : Phase)
    (hfull : seq = .blit → s.outPos = s.outCap) : AtlasForm { s with seq := seq, phase := phase } :=
  have hf := inFrame_of_inStream hs
  { tileWritten := h.tileWritten
    atlasListed := h.atlasListed
    atlasLen := fun _ => h.atlasLen (.inl hf)
    bpp := fun _ => h.bpp hf
    frame := fun _ => h.frame hf
    offset := fun _ => h.offset (.inr hs)
    canvas := fun _ => h.canvas hs
    capacity := fun _ => h.capacity hs
    full := hfull }

/-! ## The output -/

theorem tileWritten_put {s : State} (h : TileWritten s) (b : Byte) : TileWritten (put b s) := by
  intro a
  rw [put_tile, put_outPos]
  by_cases ha : a = s.outPos
  · subst ha
    exact iff_of_true ⟨b, Memory.find_write_none _ _ _⟩ (Nat.lt_succ_self _)
  · rw [Memory.find_write_other ha, h a]
    omega

theorem atlasForm_put {s : State} (h : AtlasForm s) (hb : s.seq ≠ .blit) (b : Byte) : AtlasForm (put b s) :=
  { h with
    tileWritten := tileWritten_put h.tileWritten b
    full := fun hs => absurd hs hb }

theorem atlasForm_matchCopy {s : State} (h : AtlasForm s) (hb : s.seq ≠ .blit) (dist n : Nat) :
    AtlasForm (matchCopy dist n s) := by
  induction n generalizing s with
  | zero => exact h
  | succ n ih => exact ih (atlasForm_put h hb _) hb

theorem atlasForm_storedCopy {s t : State} {n : Nat} (h : AtlasForm s) (hb : s.seq ≠ .blit)
    (ht : storedCopy n s = .ok t) : AtlasForm t := by
  induction n generalizing s with
  | zero => cases ht; exact h
  | succ n ih =>
    simp only [storedCopy] at ht
    split at ht
    · cases ht
    · rename_i b u hr
      obtain ⟨-, -, rfl⟩ := readByte_ok hr
      have hread : AtlasForm (advanceBits 8 s) := { h with }
      exact ih (atlasForm_put hread hb b) hb ht

theorem atlasForm_endBlock {s : State} (h : AtlasForm s) (hs : inStream s.seq = true) : AtlasForm (endBlock s) :=
  atlasForm_goOn h hs _ .head (by split <;> nofun)

theorem ensures_atlasForm_finishMatch {s : State} (h : AtlasForm s) (hseq : s.seq = .symbols) (sym extra : Nat) :
    Ensures AtlasForm (finishMatch sym extra s) := by
  rcases finishMatch_cases sym extra s with ⟨-, he⟩ | ⟨-, -, he⟩ | ⟨-, -, he⟩
  · exact .of_eq he (ensures_atlasForm_raise h.tileWritten)
  · exact .of_eq he (ensures_atlasForm_raise h.tileWritten)
  · have hcopy := atlasForm_matchCopy h (by rw [hseq]; nofun) (distanceOperand sym extra) s.matchLen
    have hs : inStream (matchCopy (distanceOperand sym extra) s.matchLen s).seq = true := by
      rw [(matchCopy_walk _ _ s).1, hseq]; rfl
    exact .of_eq he (.next (atlasForm_goOn hcopy hs .symbols .head nofun))

theorem ensures_atlasForm_execStoredHdr {s : State} (h : AtlasForm s) (hseq : s.seq = .stored) (len nlen : Half) :
    Ensures AtlasForm (execStoredHdr len nlen s) := by
  rcases execStoredHdr_cases len nlen s with ⟨c, he⟩ | ⟨t, -, ht, he⟩
  · exact .of_eq he (ensures_atlasForm_raise h.tileWritten)
  · have hs : inStream t.seq = true := by rw [(storedCopy_walk ht).1, hseq]; rfl
    exact .of_eq he (.next (atlasForm_endBlock (atlasForm_storedCopy h (by rw [hseq]; nofun) ht) hs))

theorem ensures_atlasForm_putRun {s : State} (h : AtlasForm s) (v r : Nat) : Ensures AtlasForm (putRun v r s) := by
  rcases putRun_cases v r s with ⟨-, he⟩ | ⟨-, he⟩
  · exact .of_eq he (ensures_atlasForm_raise h.tileWritten)
  · exact .of_eq he (.next { h with })

/-! ## The walk -/

/-- The frame loop goes on at a frame that exists, or leaves the walk with the atlas as it is (44_container.md R339). -/
theorem atlasForm_frameLoop {s : State} (h : FrameForm s) (f : Nat) : AtlasForm (frameLoop f s) := by
  rcases frameLoop_cases f s with ⟨hlt, he⟩ | ⟨-, he⟩
  · rw [he]
    exact FrameForm.atlasForm { h with } (fun _ => hlt) nofun rfl
  · rw [he]
    exact atlasForm_leave h.tileWritten h.atlasListed _ .head (by split <;> rfl) (fun _ => h.atlasLen)
      fun _ => h.atlasLen

/-- The walk starts with an atlas of the header's size (44_container.md R337 to R339). -/
theorem atlasForm_startWalk {s : State} (h : TileWritten s) (hbpp : s.bpp = 1 ∨ s.bpp = 4) : AtlasForm (startWalk s) :=
  atlasForm_frameLoop (s := { initAtlas s with
    dur := List.replicate s.nframes 0, tags := [], slices := [], palCount := 0, cur := Config.headerSize })
    { tileWritten := h
      atlasListed := fillCells_listedBelow _ _
      atlasLen := rfl
      bpp := hbpp
      dur := List.length_replicate } 0

theorem ensures_atlasForm_execFileHdr {s : State} (h : TileWritten s) (size : Word)
    (magic nframes width height depth : Half) (tkey : Byte) :
    Ensures AtlasForm (execFileHdr size magic nframes width height depth tkey s) := by
  rcases execFileHdr_cases size magic nframes width height depth tkey s with ⟨c, he⟩ | ⟨bpp, hbpp, -, he | he⟩
  · exact .of_eq he (ensures_atlasForm_raise h)
  · exact .of_eq he (ensures_atlasForm_raise h)
  · exact .of_eq he (.next (atlasForm_startWalk h hbpp))

theorem ensures_atlasForm_execFrameHdr {s : State} (h : AtlasForm s) (hseq : s.seq = .frameHdr) (bytes : Word)
    (magic legacy duration : Half) (newCount : Word) :
    Ensures AtlasForm (execFrameHdr bytes magic legacy duration newCount s) := by
  have hf : inFrame s.seq = true := by rw [hseq]; rfl
  have hframe := frameForm_of_inFrame h hf
  rcases execFrameHdr_cases bytes magic legacy duration newCount s with ⟨c, he⟩ | ⟨-, -, he⟩
  · exact .of_eq he (ensures_atlasForm_raise h.tileWritten)
  · refine .of_eq he (.next (FrameForm.atlasForm { hframe with dur := ?_ } (fun _ => (h.frame hf).1) nofun rfl))
    exact List.length_set.trans hframe.dur

theorem ensures_atlasForm_execChunkHdr {s : State} (h : AtlasForm s) (hseq : s.seq = .chunkHdr) (size : Word)
    (type : Half) : Ensures AtlasForm (execChunkHdr size type s) := by
  have hf : inFrame s.seq = true := by rw [hseq]; rfl
  rcases execChunkHdr_cases size type s with he | ⟨-, he⟩
  · exact .of_eq he (ensures_atlasForm_raise h.tileWritten)
  · exact .of_eq he (.next { atlasForm_goTo h hf .chunkHdr .tail nofun rfl with })

theorem atlasForm_endChunk {s : State} (h : AtlasForm s) (hf : inFrame s.seq = true) : AtlasForm (endChunk s) :=
  { atlasForm_goTo h hf .chunkHdr .head nofun rfl with }

/-- The cel state is entered with offsets that are not negative (44_container.md R360). -/
theorem ensures_atlasForm_execChunkCel {s : State} (h : AtlasForm s) (hf : inFrame s.seq = true) (x y : Half) :
    Ensures AtlasForm (execChunkCel x y s) := by
  rcases execChunkCel_offsets x y s with he | ⟨hx, hy, he⟩
  · exact .of_eq he (ensures_atlasForm_raise h.tileWritten)
  · exact .of_eq he (.next
      { tileWritten := h.tileWritten
        atlasListed := h.atlasListed
        atlasLen := fun _ => h.atlasLen (.inl hf)
        bpp := fun _ => h.bpp hf
        frame := fun _ => h.frame hf
        offset := fun _ => ⟨hx, hy⟩
        canvas := nofun
        capacity := nofun
        full := nofun })

/-- A stream starts with an empty tile, for a cel on the canvas (44_container.md R364, R366). -/
theorem ensures_atlasForm_execCelCompressed {s : State} (h : AtlasForm s) (hseq : s.seq = .cel) (w height : Half) :
    Ensures AtlasForm (execCelCompressed w height s) := by
  have hf : inFrame s.seq = true := by rw [hseq]; rfl
  rcases execCelCompressed_canvas w height s with ⟨c, he⟩ | ⟨hx, hy, he⟩
  · exact .of_eq he (ensures_atlasForm_raise h.tileWritten)
  · exact .of_eq he (.next
      { tileWritten := fun a => iff_of_false nofun (Nat.not_lt_zero a)
        atlasListed := h.atlasListed
        atlasLen := fun _ => h.atlasLen (.inl hf)
        bpp := fun _ => h.bpp hf
        frame := fun _ => h.frame hf
        offset := fun _ => h.offset (.inl hseq)
        canvas := fun _ => ⟨hx, hy⟩
        capacity := fun _ => rfl
        full := nofun })

/-- What follows a chunk's header, by its type (44_container.md R348). -/
theorem ensures_atlasForm_chunkType {i : Instr} {s : State} (h : AtlasForm s) (hseq : s.seq = .chunkHdr)
    (hsite : siteOf i = .chunkType) : Ensures AtlasForm (exec i s) := by
  have hf : inFrame s.seq = true := by rw [hseq]; rfl
  cases i with
  | chunkPalette count first last =>
    rcases execChunkPalette_cases count first last s with he | ⟨-, he⟩
    · exact .of_eq he (ensures_atlasForm_raise h.tileWritten)
    · exact .of_eq he (.next { atlasForm_goTo h hf .palette .head nofun rfl with })
  | chunkCel x y => exact ensures_atlasForm_execChunkCel h hf x y
  | chunkTags n => exact .next { atlasForm_goTo h hf .tags .head nofun rfl with }
  | chunkSlice nkeys flags label =>
    rcases execChunkSlice_cases nkeys flags label s with ⟨c, he⟩ | he
    · exact .of_eq he (ensures_atlasForm_raise h.tileWritten)
    · exact .of_eq he (.next { atlasForm_goTo h hf .slice .head nofun rfl with })
  | chunkOther type => exact .next (atlasForm_goTo h hf .skip .head nofun rfl)
  | _ => cases hsite

/-! ## Tokens -/

/-- A token in its sequencer state keeps the form of the tile and the atlas. -/
theorem ensures_atlasForm_exec {i : Instr} {s : State} (h : AtlasForm s) (hseq : s.seq = siteSeq (siteOf i)) :
    Ensures AtlasForm (exec i s) := by
  by_cases htype : siteOf i = .chunkType
  · exact ensures_atlasForm_chunkType h (by rw [hseq, htype]; rfl) htype
  have hstream {site : Site} (hsite : siteOf i = site) (hin : inStream (siteSeq site) = true) :
      inStream s.seq = true := by rw [hseq, hsite]; exact hin
  induction i using Instr.byMeaning with
  | codeLength i v _ _ he => exact .of_eq (he s) (.next { h with })
  | zeroRun i r _ he => exact .of_eq (he s) (ensures_atlasForm_putRun h 0 r)
  | length i sym extra hsite he =>
    exact .of_eq (he s) (.next { atlasForm_goOn h (hstream hsite rfl) .symbols .tail nofun with })
  | distance i sym extra hsite he =>
    exact .of_eq (he s) (ensures_atlasForm_finishMatch h (by rw [hseq, hsite]; rfl) sym extra)
  | moves i seq hsite _ he =>
    rcases hsite with hsite | hsite
    · exact absurd hsite htype
    · have hs : inStream s.seq = true := hsite.elim (hstream · rfl) (hstream · rfl)
      have hb := exec_seq_ne_blit hsite (he s)
      exact .of_eq (he s) (.next (atlasForm_goOn h hs seq .head fun hseq => absurd hseq hb))
  | fails i c he => exact .of_eq (he s) (ensures_atlasForm_raise h.tileWritten)
  | fileHdr => exact ensures_atlasForm_execFileHdr h.tileWritten ..
  | frameHdr => exact ensures_atlasForm_execFrameHdr h hseq ..
  | chunkHdr => exact ensures_atlasForm_execChunkHdr h hseq ..
  | chunkPalette | chunkCel | chunkTags | chunkSlice => exact absurd rfl htype
  | palEntry | tagRec | clLen => exact .next { h with }
  | celCompressed => exact ensures_atlasForm_execCelCompressed h hseq ..
  | sliceKey x y w height =>
    have hslices : AtlasForm { s with slices := s.slices ++
        [{ label := s.sliceLabel, x := sliceCoord x, y := sliceCoord y, w := w, h := height }] } := { h with }
    exact .next (atlasForm_endChunk hslices (by rw [hseq]; rfl))
  | zlibHdr cmf flg =>
    rcases execZlibHdr_cases cmf flg s with he | he
    · exact .of_eq he (.next (atlasForm_goOn h (hstream rfl rfl) .zHdr .tail nofun))
    · exact .of_eq he (.next (atlasForm_goOn h (hstream rfl rfl) .blkHdr .head nofun))
  | adler32Trailer adler =>
    rcases execAdler32Trailer_full adler s with ⟨c, he⟩ | ⟨hfull, he⟩
    · exact .of_eq he (ensures_atlasForm_raise h.tileWritten)
    · exact .of_eq he (.next (atlasForm_goOn h (hstream rfl rfl) .blit .head fun _ => hfull))
  | blkHdr => exact .next { atlasForm_goOn h (hstream rfl rfl) .blkHdr .tail nofun with }
  | storedHdr => exact ensures_atlasForm_execStoredHdr h hseq ..
  | dynHdr => exact .next { atlasForm_goOn h (hstream rfl rfl) .dynCl .head nofun with }
  | clRep16 extra =>
    rcases execClRep16_cases extra s with he | he
    · exact .of_eq he (ensures_atlasForm_raise h.tileWritten)
    · exact .of_eq he (ensures_atlasForm_putRun h _ _)
  | lit b =>
    rcases execLit_cases b s with he | ⟨-, he⟩
    · exact .of_eq he (ensures_atlasForm_raise h.tileWritten)
    · exact .of_eq he (.next (atlasForm_put h (by rw [hseq]; nofun) b))
  | eob => exact .next (atlasForm_endBlock h (hstream rfl rfl))
  | start flip =>
    rcases execStart_cases flip s with ⟨-, he⟩ | ⟨-, he⟩
    · exact .of_eq he (.next { h with })
    · exact .of_eq he (.next (atlasForm_startLoad h.tileWritten))

/-! ## The sequencer's moves -/

/-- Byte `c` of a cel's row lies in its frame's band of the stride (45_atlas.md R381, R383). -/
theorem band_lt {frameIdx nframes width celX celW bpp c : Nat} (hframe : frameIdx < nframes)
    (hcanvas : celX + celW ≤ width) (hc : c < celW * bpp) :
    (frameIdx * width + celX) * bpp + c < width * nframes * bpp :=
  calc (frameIdx * width + celX) * bpp + c
      < (frameIdx * width + celX) * bpp + celW * bpp := Nat.add_lt_add_left hc _
    _ = (frameIdx * width + (celX + celW)) * bpp := by ring
    _ ≤ (frameIdx * width + width) * bpp := by gcongr
    _ = width * (frameIdx + 1) * bpp := by ring
    _ ≤ width * nframes * bpp := by gcongr; exact hframe

/-- Every byte of the placement stands in the atlas (45_atlas.md R382). -/
theorem rowOffset_lt {s : State} (h : AtlasForm s) (hs : inStream s.seq = true) {row c : Nat} (hrow : row < s.celH)
    (hc : c < s.celW * s.bpp) : rowOffset s row + c < s.atlasLen := by
  have hf := inFrame_of_inStream hs
  obtain ⟨hx0, hy0⟩ := h.offset (.inr hs)
  obtain ⟨hx, hy⟩ := h.canvas hs
  have hband := band_lt (width := s.width) (celX := s.celX.toNat) (h.frame hf).1 (by omega) hc
  rw [h.atlasLen (.inl hf), atlasSize_eq_rows, rowOffset, Nat.add_assoc]
  exact row_lt (by omega) hband

theorem blitRows_listedBelow {s : State} (h : AtlasForm s) (hs : inStream s.seq = true) {rows : Nat}
    (hrows : rows ≤ s.celH) : Memory.ListedBelow s.atlasLen (blitRows s rows) := by
  induction rows with
  | zero => exact h.atlasListed
  | succ row ih => exact Memory.listedBelow_fill (ih (by omega)) fun c hc => rowOffset_lt h hs (by omega) hc

/-- The placement, and the chunk's end behind it (44_container.md R367). -/
theorem ensures_atlasForm_seqBlit {s : State} (h : AtlasForm s) (hseq : s.seq = .blit) :
    Ensures AtlasForm (seqBlit s) := by
  have hs : inStream s.seq = true := by rw [hseq]; rfl
  have hblit : AtlasForm (blit s) := { h with atlasListed := blitRows_listedBelow h hs le_rfl }
  exact .next (atlasForm_endChunk hblit (inFrame_of_inStream hs))

theorem ensures_atlasForm_seqFlip {s : State} (h : AtlasForm s) (hseq : s.seq = .flip) :
    Ensures AtlasForm (seqFlip s) := by
  have hlen := h.atlasLen (.inr (.inl hseq))
  have hlisted : Memory.ListedBelow s.atlasLen (flipAtlas s).atlas := by
    have hrows := h.atlasListed
    rw [hlen, atlasSize_eq_rows] at hrows ⊢
    exact flipRows_listedBelow hrows (Nat.div_le_self _ _)
  exact .next (atlasForm_leave (s := flipAtlas s) h.tileWritten hlisted .done .head rfl nofun fun _ => hlen)

theorem ensures_atlasForm_sequence {s : State} (h : AtlasForm s) : Ensures AtlasForm (sequence s) := by
  have hframe {seq : Seq} (hseq : s.seq = seq) (hin : inFrame seq = true) : inFrame s.seq = true := hseq ▸ hin
  have hstream {seq : Seq} (hseq : s.seq = seq) (hin : inStream seq = true) : inStream s.seq = true := hseq ▸ hin
  unfold sequence
  cases hseq : s.seq with
  | chunkHdr => exact .next (atlasForm_goTo h (hframe hseq rfl) .frameEndCheck .head nofun rfl)
  | palette =>
    have hcount : AtlasForm { s with palCount := s.palNew } := { h with }
    exact .next (atlasForm_endChunk hcount (hframe hseq rfl))
  | tags | skip => exact .next (atlasForm_endChunk h (hframe hseq rfl))
  | frameEndCheck =>
    rcases seqFrameEndCheck_cases s with he | he
    · exact .of_eq he (ensures_atlasForm_raise h.tileWritten)
    · exact .of_eq he (.next (atlasForm_frameLoop (frameForm_of_inFrame h (hframe hseq rfl)) _))
  | fixedSetup =>
    rcases seqFixedSetup_cases s with ⟨c, he⟩ | ⟨lit, dist, -, -, he⟩
    · exact .of_eq he (ensures_atlasForm_raise h.tileWritten)
    · exact .of_eq he (.next { atlasForm_goOn h (hstream hseq rfl) .symbols .head nofun with })
  | dynCl =>
    rcases seqClTable_cases s with ⟨c, he⟩ | ⟨T, -, he⟩
    · exact .of_eq he (ensures_atlasForm_raise h.tileWritten)
    · exact .of_eq he (.next { atlasForm_goOn h (hstream hseq rfl) .dynLens .head nofun with })
  | dynLens =>
    rcases seqBlockTables_cases s with ⟨c, he⟩ | ⟨lit, dist, -, -, he⟩
    · exact .of_eq he (ensures_atlasForm_raise h.tileWritten)
    · exact .of_eq he (.next { atlasForm_goOn h (hstream hseq rfl) .symbols .head nofun with })
  | blit => exact ensures_atlasForm_seqBlit h hseq
  | flip => exact ensures_atlasForm_seqFlip h hseq
  | done =>
    exact .next { atlasForm_leave h.tileWritten h.atlasListed .idle .head rfl nofun nofun with }
  | error =>
    exact .next (atlasForm_leave h.tileWritten h.atlasListed .idle .head rfl nofun nofun)
  | idle | fileHdr | frameHdr | cel | slice | zHdr | blkHdr | stored | dynHdr | symbols | trailer => exact .next h

/-! ## The engine and the host -/

theorem ensures_atlasForm_rejected {s : State} (h : AtlasForm s) {site : Site} {r : Reject}
    (hs : r = .noHeader → inStream s.seq = true) : Ensures AtlasForm (rejected site r s) := by
  cases r with
  | short => exact ensures_atlasForm_raise h.tileWritten
  | badSymbol => exact ensures_atlasForm_raise h.tileWritten
  | noHeader => exact .next (atlasForm_goOn h (hs rfl) .blkHdr .head nofun)
  | noStart => exact .next h

theorem atlasForm_enterSite {s : State} (h : AtlasForm s) (site : Site) : AtlasForm (enterSite site s) := by
  cases site <;> exact { h with }

theorem atlasForm_pastToken {s : State} (h : AtlasForm s) (site : Site) (n : Nat) :
    AtlasForm (pastToken site n s) := by
  cases site <;> exact { h with }

theorem ensures_atlasForm_engineStep {s : State} (h : AtlasForm s) : Ensures AtlasForm (engineStep s) := by
  refine ensures_engineStep (fun site i n hseq => ?_) (fun site r hseq hsite => ?_) (ensures_atlasForm_sequence h)
  · exact ensures_atlasForm_exec (atlasForm_pastToken h site n) (by rw [pastToken_seq]; exact hseq)
  · refine ensures_atlasForm_rejected (atlasForm_enterSite h site) fun hr => ?_
    rw [enterSite_seq, hseq, hsite hr]
    rfl

theorem atlasForm_resetBlock (s : State) : AtlasForm (resetBlock s) :=
  atlasForm_leave (s := resetBlock s) (fun a => iff_of_false nofun (Nat.not_lt_zero a)) (Memory.listedBelow_nil _)
    .idle .head rfl nofun nofun

theorem atlasForm_hostMove {s t : State} (h : AtlasForm s) (ht : HostMove s t) : AtlasForm t := by
  cases ht with
  | same => exact h
  | flip b | inLen v | input m | read v => exact { h with }
  | start b => exact atlasForm_startLoad h.tileWritten
  | reset => exact atlasForm_resetBlock s

/-- Settles O55: every step is a host move or a step of the engine. A stream starts only for a cel on the canvas, and is
placed only when full, so the placement stays in the atlas. The other three invariants are not needed. -/
theorem atlasFormKept : Obligations.AtlasFormKept := by
  unfold Obligations.AtlasFormKept
  intro s t _ _ _ h hstep
  obtain ⟨rest, hnext⟩ := step_next hstep
  have hrest : AtlasForm { s with host := rest } := { h with }
  rcases hnext with hengine | hmove
  · exact (ensures_atlasForm_engineStep hrest).holds t hengine
  · exact atlasForm_hostMove hrest hmove

end Sys2Proof.Machine
end

section
/-! The unspecified content of TILE (20_memory.md R71, log 8): no token, rejection or move reads it, and O56. -/

namespace Sys2Proof.Machine

open Sys2Proof.Safety

/-- The state with other unspecified content of TILE. -/
def redraw (e : Nat) (s : State) : State := { s with tileEpoch := e }

/-- Where the first answer is a next state, so is the second, the same but for TILE's unspecified content. -/
structure SameButDraw (o o' : Answer) : Prop where
  next_eq : ∀ t, o = .next t → ∃ e, o' = .next (redraw e t)

namespace SameButDraw

theorem next {e : Nat} {t : State} : SameButDraw (.next t) (.next (redraw e t)) :=
  ⟨by rintro _ ⟨⟩; exact ⟨e, rfl⟩⟩

theorem next_of_eq {e : Nat} {t t' : State} (h : t' = redraw e t) : SameButDraw (.next t) (.next t') := h ▸ next

theorem raise {e : Nat} {c : Cause} {t : State} : SameButDraw (raise c t) (raise c (redraw e t)) :=
  next (e := e) (t := failEntry c t)

theorem refused {r : Refusal} {o : Answer} : SameButDraw (.refused r) o := ⟨fun _ h => by cases h⟩

theorem fault {r : Fault} {o : Answer} : SameButDraw (.fault r) o := ⟨fun _ h => by cases h⟩

theorem ite_of_imp {p : Prop} [Decidable p] {o₁ o₁' o₂ o₂' : Answer} (h₁ : p → SameButDraw o₁ o₁')
    (h₂ : ¬ p → SameButDraw o₂ o₂') : SameButDraw (if p then o₁ else o₂) (if p then o₁' else o₂') := by
  split
  · exact h₁ ‹_›
  · exact h₂ ‹_›

theorem ite {p : Prop} [Decidable p] {o₁ o₁' o₂ o₂' : Answer} (h₁ : SameButDraw o₁ o₁') (h₂ : SameButDraw o₂ o₂') :
    SameButDraw (if p then o₁ else o₂) (if p then o₁' else o₂') :=
  ite_of_imp (fun _ => h₁) fun _ => h₂

theorem orRaise {α : Type} {r : Except Cause α} {e : Nat} {s : State} {k k' : α → Answer}
    (h : ∀ v, SameButDraw (k v) (k' v)) : SameButDraw (orRaise r s k) (orRaise r (redraw e s) k') := by
  cases r with
  | ok v => exact h v
  | error c => exact raise

theorem of_eq {o o' u u' : Answer} (ho : o = u) (ho' : o' = u') (h : SameButDraw u u') : SameButDraw o o' :=
  ho ▸ ho' ▸ h

end SameButDraw

/-! ## Reads of the tile -/

/-- A byte the stream has written does not depend on the unspecified content. -/
theorem tileByte_redraw {s : State} (h : TileWritten s) (e : Nat) {a : Nat} (ha : a < s.outPos) :
    tileByte (redraw e s) a = tileByte s a := by
  obtain ⟨b, hb⟩ := (h a).2 ha
  have hb' : (redraw e s).tile.find a = some b := hb
  simp only [tileByte, hb, hb', Option.getD_some]

/-- A match reads only the stream's own output (42_inflate.md R227, R228). -/
theorem matchCopy_redraw {s : State} (h : TileWritten s) (e : Nat) {dist : Nat} (hpos : 0 < dist)
    (hdist : dist ≤ s.outPos) (n : Nat) : matchCopy dist n (redraw e s) = redraw e (matchCopy dist n s) := by
  induction n generalizing s with
  | zero => rfl
  | succ n ih =>
    have hread : tileByte (redraw e s) (s.outPos - dist) = tileByte s (s.outPos - dist) :=
      tileByte_redraw h e (by omega)
    calc matchCopy dist (n + 1) (redraw e s)
        = matchCopy dist n (put (tileByte (redraw e s) (s.outPos - dist)) (redraw e s)) := rfl
      _ = matchCopy dist n (redraw e (put (tileByte s (s.outPos - dist)) s)) := by rw [hread]; rfl
      _ = redraw e (matchCopy dist (n + 1) s) := ih (tileWritten_put h _) (Nat.le_succ_of_le hdist)

/-- Every byte of a full tile's rows is the stream's output (43_zlib_adler.md R308). -/
theorem blitRows_redraw {s : State} (h : AtlasForm s) (hseq : s.seq = .blit) (e : Nat) {rows : Nat}
    (hrows : rows ≤ s.celH) : blitRows (redraw e s) rows = blitRows s rows := by
  have hs : inStream s.seq = true := by rw [hseq]; rfl
  have hout : s.outPos = s.celH * (s.celW * s.bpp) := by
    rw [h.full hseq, h.capacity hs]
    ring
  induction rows with
  | zero => rfl
  | succ row ih =>
    have hread : ∀ c < s.celW * s.bpp, tileByte (redraw e s) (row * (s.celW * s.bpp) + c) =
        tileByte s (row * (s.celW * s.bpp) + c) := fun c hc =>
      tileByte_redraw h.tileWritten e (hout ▸ row_lt (by omega) hc)
    calc blitRows (redraw e s) (row + 1)
        = Memory.fill (some 0) (blitRows (redraw e s) row) (rowOffset s row)
            (fun c => tileByte (redraw e s) (row * (s.celW * s.bpp) + c)) (s.celW * s.bpp) := rfl
      _ = blitRows s (row + 1) := by rw [ih (by omega), Memory.fill_congr hread]; rfl

theorem blit_redraw {s : State} (h : AtlasForm s) (hseq : s.seq = .blit) (e : Nat) :
    blit (redraw e s) = redraw e (blit s) := by
  have hrows := blitRows_redraw h hseq e le_rfl
  show { redraw e s with atlas := blitRows (redraw e s) s.celH } = _
  rw [hrows]
  rfl

/-! ## Operations that do not read the tile -/

theorem readByte_redraw (e : Nat) (s : State) :
    readByte (redraw e s) = (readByte s).map fun r => (r.1, redraw e r.2) := by
  rw [readByte_eq, readByte_eq]
  show (if avail s < 8 then _ else _) = _
  split <;> rfl

theorem storedCopy_redraw (n e : Nat) (s : State) : storedCopy n (redraw e s) = (storedCopy n s).map (redraw e) := by
  induction n generalizing s with
  | zero => rfl
  | succ n ih =>
    simp only [storedCopy, readByte_redraw]
    cases readByte s with
    | error c => rfl
    | ok r => exact ih (put r.1 r.2)

theorem frameLoop_redraw (f e : Nat) (s : State) : frameLoop f (redraw e s) = redraw e (frameLoop f s) := by
  unfold frameLoop
  show (if f < s.nframes then _ else _) = _
  split <;> rfl

theorem startWalk_redraw (e : Nat) (s : State) : startWalk (redraw e s) = redraw e (startWalk s) :=
  frameLoop_redraw 0 e { initAtlas s with
    dur := List.replicate s.nframes 0, tags := [], slices := [], palCount := 0, cur := Config.headerSize }

theorem enterSite_redraw (site : Site) (e : Nat) (s : State) :
    enterSite site (redraw e s) = redraw e (enterSite site s) := by cases site <;> rfl

theorem moveCursor_redraw (site : Site) (n e : Nat) (s : State) :
    moveCursor site n (redraw e s) = redraw e (moveCursor site n s) := by cases site <;> rfl

theorem pastToken_redraw (site : Site) (n e : Nat) (s : State) :
    pastToken site n (redraw e s) = redraw e (pastToken site n s) := by
  unfold pastToken
  rw [enterSite_redraw, moveCursor_redraw]

theorem siteBits_redraw (site : Site) (e : Nat) (s : State) : siteBits site (redraw e s) = siteBits site s := by
  cases site <;> rfl

theorem siteTable_redraw (site : Site) (e : Nat) (s : State) : siteTable site (redraw e s) = siteTable site s := by
  cases site <;> rfl

/-- The fetch reads IN and the registers, and no byte of TILE. -/
theorem fetch_redraw (site : Site) (e : Nat) (s : State) : fetch site (redraw e s) = fetch site s := by
  simp only [fetch, enterSite_redraw, siteBits_redraw, siteTable_redraw]

/-! ## Tokens -/

/-- Every distance is at least MIN_DIST, so no match reads at OUT_POS (30_encoding.md R119). -/
theorem distanceOperand_pos {sym : Nat} (hsym : sym < 30) (extra : Nat) : 0 < distanceOperand sym extra := by
  have hbase : ∀ k < 30, 0 < distanceBase k := by decide
  exact Nat.add_pos_left (hbase sym hsym) extra

/-- A distance symbol is a match at one of the 30 distance codes, or it is invalid. -/
theorem exec_distSym {i : Instr} (hsite : siteOf i = .distSym) :
    (∃ sym extra, sym < 30 ∧ ∀ s, exec i s = finishMatch sym extra s) ∨
      ∀ s, exec i s = raise .badDistanceSymbol s := by
  cases i with
  | dist0 | dist1 | dist2 | dist3 | dist4 _ | dist5 _ | dist6 _ | dist7 _ | dist8 _ | dist9 _ | dist10 _
  | dist11 _ | dist12 _ | dist13 _ | dist14 _ | dist15 _ | dist16 _ | dist17 _ | dist18 _ | dist19 _
  | dist20 _ | dist21 _ | dist22 _ | dist23 _ | dist24 _ | dist25 _ | dist26 _ | dist27 _ | dist28 _
  | dist29 _ => exact .inl ⟨_, _, by decide, fun _ => rfl⟩
  | distInvalid _ => exact .inr fun _ => rfl
  | _ => cases hsite

theorem sameButDraw_finishMatch {s : State} (h : TileWritten s) (e : Nat) {sym : Nat} (hsym : sym < 30)
    (extra : Nat) : SameButDraw (finishMatch sym extra s) (finishMatch sym extra (redraw e s)) := by
  refine .ite_of_imp (fun _ => .raise) fun hdist => .ite .raise ?_
  have hcopy := matchCopy_redraw h e (distanceOperand_pos hsym extra) (not_lt.1 hdist) s.matchLen
  exact .next_of_eq (congrArg (fun u : State => { u with seq := .symbols, phase := .head }) hcopy)

theorem sameButDraw_putRun (v r e : Nat) (s : State) : SameButDraw (putRun v r s) (putRun v r (redraw e s)) :=
  .ite .raise .next

theorem sameButDraw_execFileHdr (size : Word) (magic nframes width height depth : Half) (tkey : Byte) (e : Nat)
    (s : State) : SameButDraw (execFileHdr size magic nframes width height depth tkey s)
      (execFileHdr size magic nframes width height depth tkey (redraw e s)) := by
  refine .ite .raise (.ite .raise ?_)
  simp only [headerFields_depth]
  cases bytesPerPixel depth.toNat with
  | none => exact .raise
  | some bpp =>
    have hwalk := startWalk_redraw e { headerFields size nframes width height depth tkey s with bpp := bpp }
    exact .ite .raise (.next_of_eq hwalk)

theorem sameButDraw_execStoredHdr (len nlen : Half) (e : Nat) (s : State) :
    SameButDraw (execStoredHdr len nlen s) (execStoredHdr len nlen (redraw e s)) := by
  refine .ite .raise (.ite .raise (.ite .raise ?_))
  rw [storedCopy_redraw]
  cases storedCopy len.toNat s with
  | error c => exact .raise
  | ok t => exact .next

/-- No token's meaning depends on TILE's unspecified content. -/
theorem sameButDraw_exec {s : State} (h : TileWritten s) (e : Nat) (i : Instr) :
    SameButDraw (exec i s) (exec i (redraw e s)) := by
  by_cases hdist : siteOf i = .distSym
  · rcases exec_distSym hdist with ⟨sym, extra, hsym, he⟩ | he
    · exact .of_eq (he s) (he _) (sameButDraw_finishMatch h e hsym extra)
    · exact .of_eq (he s) (he _) .raise
  induction i using Instr.byMeaning with
  | codeLength i v _ _ he => exact .of_eq (he s) (he _) .next
  | zeroRun i r _ he => exact .of_eq (he s) (he _) (sameButDraw_putRun 0 r e s)
  | length i sym extra _ he => exact .of_eq (he s) (he _) .next
  | distance i sym extra hsite _ => exact absurd hsite hdist
  | moves i seq _ _ he => exact .of_eq (he s) (he _) .next
  | fails i c he => exact .of_eq (he s) (he _) .raise
  | fileHdr => exact sameButDraw_execFileHdr ..
  | frameHdr => exact .ite .raise (.ite .raise .next)
  | chunkHdr | chunkPalette | chunkCel => exact .ite .raise .next
  | chunkSlice | celCompressed | adler32Trailer => exact .ite .raise (.ite .raise .next)
  | zlibHdr => exact .ite .next .next
  | storedHdr => exact sameButDraw_execStoredHdr ..
  | clRep16 => exact .ite .raise (sameButDraw_putRun ..)
  | lit => exact .ite .raise .next
  | chunkTags | palEntry | tagRec | sliceKey | blkHdr | dynHdr | clLen | eob => exact .next
  | start => exact .ite .next .next

/-! ## The engine and the host -/

theorem sameButDraw_rejected (site : Site) (r : Reject) (e : Nat) (s : State) :
    SameButDraw (rejected site r s) (rejected site r (redraw e s)) := by
  cases r with
  | short | badSymbol => exact .raise
  | noHeader | noStart => exact .next

theorem sameButDraw_sequence {s : State} (h : AtlasForm s) (e : Nat) :
    SameButDraw (sequence s) (sequence (redraw e s)) := by
  unfold sequence
  rw [show (redraw e s).seq = s.seq from rfl]
  cases hseq : s.seq with
  | frameEndCheck => exact .ite .raise (.next_of_eq (frameLoop_redraw _ e s))
  | fixedSetup => exact .orRaise fun _ => .orRaise fun _ => .next
  | dynCl | dynLens => exact .orRaise fun _ => .next
  | blit => exact .next_of_eq (congrArg endChunk (blit_redraw h hseq e))
  | chunkHdr | palette | tags | skip | flip | done | error => exact .next
  | idle | fileHdr | frameHdr | cel | slice | zHdr | blkHdr | stored | dynHdr | symbols | trailer => exact .next

theorem sameButDraw_engineStep {s : State} (h : AtlasForm s) (e : Nat) :
    SameButDraw (engineStep s) (engineStep (redraw e s)) := by
  unfold engineStep
  rw [show nextSite (redraw e s) = nextSite s from rfl]
  cases nextSite s with
  | none => exact sameButDraw_sequence h e
  | some site =>
    simp only [fetch_redraw, enterSite_redraw, pastToken_redraw]
    cases fetch site s with
    | error r => exact sameButDraw_rejected site r e _
    | ok p => exact sameButDraw_exec (atlasForm_pastToken h site p.2).tileWritten e p.1

theorem writeInLen_redraw (v : Reg) (e : Nat) (s : State) : writeInLen v (redraw e s) = redraw e (writeInLen v s) := by
  unfold writeInLen
  show (if busy s = true then _ else _) = _
  split <;> rfl

theorem sameButDraw_writeReg (index : Nat) (v : Reg) (e : Nat) (s : State) :
    SameButDraw (writeReg index v s) (writeReg index v (redraw e s)) := by
  refine .ite ?_ (.ite ?_ .next)
  · rw [writeCtrl_eq, writeCtrl_eq]
    exact .ite (.ite .next .next) .next
  · exact .next_of_eq (writeInLen_redraw v e s)

theorem sameButDraw_hostRead (v : Option HostValue) (e : Nat) (s : State) :
    SameButDraw (hostRead v s) (hostRead v (redraw e s)) := by
  refine .ite .refused ?_
  cases v with
  | none => exact .fault
  | some v => exact .next

/-- The host cannot read TILE (60_exceptions.md R423). -/
theorem sameButDraw_hostAct (op : HostOp) (e : Nat) (s : State) :
    SameButDraw (hostAct op s) (hostAct op (redraw e s)) := by
  cases op with
  | wait | readReg | reset => exact .next
  | writeReg index v => exact sameButDraw_writeReg index v e s
  | writeIn => exact .ite .refused (.ite .next .fault)
  | readAtlas | readPal | readDur | readTag | readSlice => exact sameButDraw_hostRead _ e s

theorem sameButDraw_step {s : State} (h : AtlasForm s) (e : Nat) : SameButDraw (step s) (step (redraw e s)) := by
  cases hhost : s.host with
  | nil => exact .of_eq (step_engine hhost) (step_engine hhost) (sameButDraw_engineStep h e)
  | cons op rest =>
    have hrest : AtlasForm { s with host := rest } := { h with }
    by_cases hw : op = .wait
    · subst hw
      exact .of_eq (step_wait hhost) (step_wait hhost) (sameButDraw_engineStep hrest e)
    · exact .of_eq (step_host hhost hw) (step_host hhost hw) (sameButDraw_hostAct op e { s with host := rest })

/-- Settles O56: a match reads the tile below OUT_POS and the placement reads a full tile, so every byte they read was
written by the stream; nothing else reads TILE. -/
theorem tileDrawUnused : Obligations.TileDrawUnused := by
  unfold Obligations.TileDrawUnused
  intro s t e h hstep
  exact (sameButDraw_step h e).next_eq t hstep

end Sys2Proof.Machine
end

section
/-! SUPPORT. The canonical code of a built table (41_huffman.md R170 to R172): its register file, and that the decoder
reads each codeword back as its symbol (R173). -/

namespace Sys2Proof.Machine

/-! ## The register files -/

theorem runningIndex_getD_succ {acc k : Nat} {cs : List Nat} (h : k + 1 < cs.length) :
    (runningIndex acc cs).getD (k + 1) 0 = (runningIndex acc cs).getD k 0 + cs.getD k 0 := by
  induction cs generalizing acc k with
  | nil => simp at h
  | cons c cs ih =>
    cases k with
    | zero => cases cs <;> simp_all [runningIndex]
    | succ k => simpa [runningIndex] using ih (acc := acc + c) (k := k) (by simpa using h)

theorem runningCode_getD_succ {code k : Nat} {cs : List Nat} (h : k + 1 < cs.length) :
    (runningCode code cs).getD (k + 1) 0 = 2 * ((runningCode code cs).getD k 0 + cs.getD k 0) := by
  induction cs generalizing code k with
  | nil => simp at h
  | cons c cs ih =>
    cases k with
    | zero => cases cs <;> simp_all [runningCode]
    | succ k => simpa [runningCode] using ih (code := 2 * (code + c)) (k := k) (by simpa using h)

/-- What `prepare` and `finalize` leave in a table's register file (R170 to R172). -/
structure Table.Canonical (T : Table) : Prop where
  len_lt : ∀ v ∈ T.len, v < 16
  count : T.count = 0 :: (List.range Config.maxCodeLen).map fun i => T.len.count (i + 1)
  first : T.first = runningCode 0 T.count
  index : T.index = runningIndex 0 T.count
  sorted : T.sorted = (List.range Config.maxCodeLen).flatMap fun i => symbolsOfLength T.len (i + 1)
  fits : T.oversubscribed = false

theorem canonical_of_buildTable {lengths : List Nat} {numRead numTotal : Nat} {T : Table}
    (h : buildTable lengths numRead numTotal = .ok T) : T.Canonical := by
  simp only [buildTable, prepareTable] at h
  split at h
  · cases h
  · rename_i P hP
    split at hP
    · cases hP
    split at hP
    · cases hP
    · rename_i hlen
      cases hP
      simp only [finalizeTable] at h
      split at h
      · cases h
      · rename_i hfits
        cases h
        refine ⟨fun v hv => not_le.1 fun h16 => hlen ?_, rfl, rfl, rfl, rfl, by simpa using hfits⟩
        exact List.any_eq_true.2 ⟨v, hv, decide_eq_true h16⟩

section
variable {T : Table} (h : T.Canonical)
include h

theorem Table.Canonical.countAt_eq {l : Nat} (h1 : 1 ≤ l) (h15 : l ≤ 15) : T.countAt l = T.len.count l := by
  obtain ⟨k, rfl⟩ := Nat.exists_eq_add_of_le' h1
  have hk : k < 15 := by omega
  simp [Table.countAt, h.count, Config.maxCodeLen, List.getElem?_range hk]

theorem Table.Canonical.count_length : T.count.length = 16 := by simp [h.count, Config.maxCodeLen]

theorem Table.Canonical.firstAt_succ {l : Nat} (h15 : l + 1 ≤ 15) :
    T.firstAt (l + 1) = 2 * (T.firstAt l + T.countAt l) := by
  unfold Table.firstAt Table.countAt
  rw [h.first]
  exact runningCode_getD_succ (by rw [h.count_length]; omega)

theorem Table.Canonical.indexAt_succ {l : Nat} (h15 : l + 1 ≤ 15) :
    T.indexAt (l + 1) = T.indexAt l + T.countAt l := by
  unfold Table.indexAt Table.countAt
  rw [h.index]
  exact runningIndex_getD_succ (by rw [h.count_length]; omega)

theorem Table.Canonical.indexAt_one : T.indexAt 1 = 0 := by
  rw [Table.indexAt, h.index, runningIndex_getD_succ (by rw [h.count_length]; decide), h.count]
  rfl

theorem Table.Canonical.lenAt_le (s : Nat) : T.lenAt s ≤ 15 := by
  rcases getD_mem_or T.len s with hs | hs
  · exact Nat.le_of_lt_succ (h.len_lt _ hs)
  · exact hs.trans_le (by decide)

/-- The codewords of a shorter length, continued to a longer one, all stand below the first codeword of that length. -/
theorem Table.Canonical.code_gap {l n : Nat} (h15 : l + (n + 1) ≤ 15) :
    (T.firstAt l + T.countAt l) * 2 ^ (n + 1) ≤ T.firstAt (l + (n + 1)) := by
  induction n with
  | zero => rw [h.firstAt_succ h15]; omega
  | succ n ih =>
    calc (T.firstAt l + T.countAt l) * 2 ^ (n + 1 + 1)
        = 2 * ((T.firstAt l + T.countAt l) * 2 ^ (n + 1)) := by ring
      _ ≤ 2 * (T.firstAt (l + (n + 1)) + T.countAt (l + (n + 1))) := by have := ih (by omega); omega
      _ = T.firstAt (l + (n + 1 + 1)) := (h.firstAt_succ h15).symm

/-- No codeword of a used length overflows it (R172). -/
theorem Table.Canonical.code_fits {l : Nat} (h1 : 1 ≤ l) (h15 : l ≤ 15) (hc : 0 < T.countAt l) :
    T.firstAt l + T.countAt l ≤ 2 ^ l := by
  obtain ⟨k, rfl⟩ := Nat.exists_eq_add_of_le' h1
  have hfits := h.fits
  simp only [Table.oversubscribed, List.any_eq_false, List.mem_range] at hfits
  have := hfits k (by simpa [Config.maxCodeLen] using h15)
  simpa [hc] using this

end

/-! ## The symbols of a length -/

theorem mem_symbolsOfLength {lens : List Nat} {l s : Nat} (hl : 0 < l) :
    s ∈ symbolsOfLength lens l ↔ lens.getD s 0 = l := by
  simp only [symbolsOfLength, List.mem_map, List.mem_filter, beq_iff_eq, Prod.exists, exists_eq_right,
    List.mem_zipIdx_iff_getElem?, List.getD_eq_getElem?_getD]
  cases lens[s]? with
  | none => simpa using hl.ne
  | some v => simp

theorem symbolsOfLength_length (lens : List Nat) (l : Nat) : (symbolsOfLength lens l).length = lens.count l := by
  have hcount : ∀ k, ((lens.zipIdx k).filter fun p => p.1 == l).length = lens.count l := by
    intro k
    rw [← List.countP_eq_length_filter, ← List.zipIdx_map_fst k lens, List.count, List.countP_map]
    simp [Function.comp_def]
  simp [symbolsOfLength, hcount]

/-- The places of `sorted` before the symbols of length `l` (R170). -/
theorem Table.Canonical.indexAt_eq_length {T : Table} (h : T.Canonical) {l : Nat} (h15 : l + 1 ≤ 15) :
    T.indexAt (l + 1) = ((List.range l).flatMap fun i => symbolsOfLength T.len (i + 1)).length := by
  induction l with
  | zero => simpa using h.indexAt_one
  | succ l ih =>
    rw [h.indexAt_succ h15, ih (by omega), h.countAt_eq (by omega) (by omega), List.range_succ, List.flatMap_append,
      List.length_append]
    simp [symbolsOfLength_length]

/-- `sorted` holds the symbols of length `l` from `index[l]` on (R170). -/
theorem Table.Canonical.sorted_split {T : Table} (h : T.Canonical) {l : Nat} (h1 : 1 ≤ l) (h15 : l ≤ 15) :
    ∃ before after, T.sorted = before ++ (symbolsOfLength T.len l ++ after) ∧ before.length = T.indexAt l ∧
      ∀ s ∈ before, T.lenAt s < l := by
  obtain ⟨k, rfl⟩ := Nat.exists_eq_add_of_le' h1
  refine ⟨(List.range k).flatMap fun i => symbolsOfLength T.len (i + 1),
    (List.range (14 - k)).flatMap fun i => symbolsOfLength T.len (k + 1 + i + 1), ?_,
    (h.indexAt_eq_length h15).symm, ?_⟩
  · rw [h.sorted, show Config.maxCodeLen = k + 1 + (14 - k) by simp only [Config.maxCodeLen]; omega, List.range_add,
      List.range_succ]
    simp [List.flatMap_map]
  · intro s hs
    simp only [List.mem_flatMap, List.mem_range] at hs
    obtain ⟨i, hi, hs⟩ := hs
    rw [mem_symbolsOfLength (by omega)] at hs
    exact hs.trans_lt (by omega)

/-- The `j`-th symbol of its length has the `j`-th codeword of that length, and stands at its place of `sorted`
(R171). -/
theorem Table.Canonical.codeOf_eq {T : Table} (h : T.Canonical) {s : Nat} (hs : 0 < T.lenAt s) :
    ∃ j < T.countAt (T.lenAt s), T.codeOf s = T.firstAt (T.lenAt s) + j ∧
      T.sorted.getD (T.indexAt (T.lenAt s) + j) 0 = s := by
  obtain ⟨before, after, hsorted, hbefore, hless⟩ := h.sorted_split hs (h.lenAt_le s)
  have hmem : s ∈ symbolsOfLength T.len (T.lenAt s) := (mem_symbolsOfLength hs).2 rfl
  have hj := List.idxOf_lt_length_of_mem hmem
  refine ⟨(symbolsOfLength T.len (T.lenAt s)).idxOf s, ?_, ?_, ?_⟩
  · rwa [h.countAt_eq hs (h.lenAt_le s), ← symbolsOfLength_length]
  · have hout : s ∉ before := fun hin => (hless s hin).false
    rw [Table.codeOf, hsorted, List.idxOf_append_of_notMem hout, List.idxOf_append_of_mem hmem, hbefore]
    omega
  · rw [hsorted, ← hbefore, List.getD_append_right _ _ _ _ (by omega), Nat.add_sub_cancel_left,
      List.getD_append _ _ _ _ hj, List.getD_eq_getElem _ _ hj, List.getElem_idxOf]

/-! ## Decoding a codeword -/

theorem bitsOf_succ_last (n v : Nat) : bitsOf (n + 1) v = bitsOf n v ++ [v / 2 ^ n % 2 == 1] := by
  induction n generalizing v with
  | zero => simp [bitsOf]
  | succ n ih =>
    calc bitsOf (n + 1 + 1) v = (v % 2 == 1) :: bitsOf (n + 1) (v / 2) := rfl
      _ = (v % 2 == 1) :: (bitsOf n (v / 2) ++ [v / 2 / 2 ^ n % 2 == 1]) := by rw [ih]
      _ = bitsOf (n + 1) v ++ [v / 2 ^ (n + 1) % 2 == 1] := by rw [Nat.div_div_eq_div_mul, ← pow_succ']; rfl

/-- A codeword's first bit in the stream is its most significant one (30_encoding.md R114). -/
theorem codeBits_succ (n v : Nat) : codeBits (n + 1) v = (v / 2 ^ n % 2 == 1) :: codeBits n v := by
  simp [codeBits, bitsOf_succ_last]

/-- The bits of a codeword so far, with its next bit. -/
theorem codeword_next_bit (n v : Nat) : 2 * (v / 2 ^ (n + 1)) + (v / 2 ^ n % 2 == 1).toNat = v / 2 ^ n := by
  rw [pow_succ, ← Nat.div_div_eq_div_mul]
  rcases Nat.mod_two_eq_zero_or_one (v / 2 ^ n) with hb | hb <;> simp [hb] <;> omega

/-- With all but `n + 1` bits of its codeword read, a symbol is found at its own length and at no shorter one. -/
theorem Table.Canonical.decodeFrom_codeword {T : Table} (h : T.Canonical) {s : Nat} (hs : 0 < T.lenAt s) (rest : Bits)
    {n l left : Nat} (hl : l + n = T.lenAt s) (hleft : n < left) :
    decodeFrom T left l (T.codeOf s / 2 ^ (n + 1)) (codeBits (n + 1) (T.codeOf s) ++ rest) = .ok (s, rest) := by
  obtain ⟨j, hj, hcode, hplace⟩ := h.codeOf_eq hs
  induction n generalizing l left with
  | zero =>
    obtain ⟨left, rfl⟩ := Nat.exists_eq_add_of_le' hleft
    obtain rfl : l = T.lenAt s := hl
    rw [codeBits_succ, List.cons_append, decodeFrom, codeword_next_bit, pow_zero, Nat.div_one, if_pos (by omega), hcode,
      Nat.add_sub_cancel_left, hplace]
    rfl
  | succ n ih =>
    obtain ⟨left, rfl⟩ := Nat.exists_eq_add_of_le' (Nat.one_le_of_lt hleft)
    have hgap : T.firstAt l + T.countAt l ≤ T.codeOf s / 2 ^ (n + 1) := by
      rw [Nat.le_div_iff_mul_le (by positivity), hcode, ← hl]
      exact (h.code_gap (hl.trans_le (h.lenAt_le s))).trans (Nat.le_add_right _ _)
    rw [codeBits_succ, List.cons_append, decodeFrom, codeword_next_bit, if_neg (by omega)]
    exact ih (by omega) (by omega)

/-- Decoding a codeword gives its symbol, whatever bits follow (R173). -/
theorem Table.Canonical.decodeSymbol_codeword {T : Table} (h : T.Canonical) {s : Nat} (hs : 0 < T.lenAt s)
    (rest : Bits) : decodeSymbol T (T.codeword s ++ rest) = .ok (s, rest) := by
  obtain ⟨n, hn⟩ := Nat.exists_eq_add_of_le' hs
  obtain ⟨j, hj, hcode, -⟩ := h.codeOf_eq hs
  have h15 := h.lenAt_le s
  have hfits := h.code_fits hs h15 (by omega)
  have hdecode := h.decodeFrom_codeword hs rest (n := n) (l := 1) (left := Config.maxCodeLen) (by omega)
    (by simp only [Config.maxCodeLen]; omega)
  rwa [Nat.div_eq_of_lt (by rw [← hn]; omega), ← hn] at hdecode

end Sys2Proof.Machine
end

section
/-! SUPPORT. Decoding what the encoder writes: fields, labels, and the rows of the three alphabets. -/

namespace Sys2Proof.Machine

open Sys2Proof.Safety

/-! ## Fields and labels -/

/-- A word survives being reduced to a field at least as wide as it is. -/
@[simp] theorem toNat_mod_of_le {w n : Nat} (x : BitVec w) (h : 2 ^ w ≤ n) : x.toNat % n = x.toNat :=
  Nat.mod_eq_of_lt (x.isLt.trans_le h)

/-- A label's length reads back, and its bytes stand after it (30_encoding.md R107, R108). -/
theorem field_label {α : Type} {label : List Byte} (h : label.length < 65536) (rest : Bits)
    (k : Nat → Bits → Except Reject α) :
    field 16 (encodeLabel label ++ rest) k = k label.length (bitsOfBytes label ++ rest) := by
  rw [encodeLabel, List.append_assoc, field_bitsOf, Nat.mod_eq_of_lt (by simpa using h)]

theorem decodeTagRec_encode {label : List Byte} (h : label.length < 65536) (first last : Half) (T : Table)
    (rest : Bits) :
    decodeTagRec (encode T (.tagRec first last label) ++ rest) = .ok (.tagRec first last label, rest) := by
  simp [encode, decodeTagRec, field_label h, takeBytes_bitsOfBytes]

theorem decodeSliceBody_encode {nkeys flags : Word} {label : List Byte}
    (h : (Instr.chunkSlice nkeys flags label).wf = true) (rest : Bits) :
    decodeSliceBody (bitsOf 32 nkeys.toNat ++ (bitsOf 32 flags.toNat ++ (bitsOf 32 0 ++ (encodeLabel label ++ rest)))) =
      .ok (.chunkSlice nkeys flags label, rest) := by
  simp only [Instr.wf, beq_iff_eq] at h
  split at h
  · rename_i hflags
    subst hflags
    simp [decodeSliceBody, field_label (of_decide_eq_true h), takeBytes_bitsOfBytes]
  · rename_i hflags
    obtain rfl := List.isEmpty_iff.1 h
    have hne : flags.toNat ≠ 0 := fun h0 => hflags (BitVec.eq_of_toNat_eq h0)
    simp [decodeSliceBody, field_label (label := []) (by decide), hne, bitsOfBytes]

theorem decodeChunkOther_encode {type : Half} (h : knownChunkType type = false) (T : Table) (rest : Bits) :
    decodeChunkType (encode T (.chunkOther type) ++ rest) = .ok (.chunkOther type, rest) := by
  simp only [knownChunkType, Bool.or_eq_false_iff, beq_eq_false_iff_ne, ne_eq, ← BitVec.toNat_inj] at h
  obtain ⟨⟨⟨hpalette, hcel⟩, htags⟩, hslice⟩ := h
  simp only [BitVec.reduceToNat] at hpalette hcel htags hslice
  simp [encode, decodeChunkType, hpalette, hcel, htags, hslice]

/-- An entry with a name may hold any colour; the encoder writes zeros (30_encoding.md R105). -/
theorem decodePalEntryNamed_encode {flags : Half} (h : hasName flags = true) (T : Table) (rest : Bits) :
    decodePalEntry (encode T (.palEntryNamed flags) ++ rest) = .ok (.palEntryNamed flags, rest) := by
  have hcolour : bitsOf 32 0 = bitsOf 8 0 ++ (bitsOf 8 0 ++ (bitsOf 8 0 ++ bitsOf 8 0)) := rfl
  simp [encode, decodePalEntry, hcolour, h]

theorem bigEndian_bytes (v : Nat) :
    bigEndian (v / 16777216) (v / 65536 % 256) (v / 256 % 256) (v % 256) = v := by
  simp only [bigEndian]; omega

theorem decodeTrailer_encode (adler : Word) (T : Table) (rest : Bits) :
    decodeTrailer (encode T (.adler32Trailer adler) ++ rest) = .ok (.adler32Trailer adler, rest) := by
  have hhigh : adler.toNat / 16777216 % 256 = adler.toNat / 16777216 := by omega
  simp [encode, decodeTrailer, hhigh, bigEndian_bytes]

theorem decodeDictId_encode (id : Word) (T : Table) (rest : Bits) :
    decodeDictId (encode T (.zlibDictid id) ++ rest) = .ok (.zlibDictid id, rest) := by
  have hparts : id.toNat % 65536 + 65536 * (id.toNat / 65536 % 65536) = id.toNat := by omega
  simp [encode, decodeDictId, hparts]

/-! ## Symbols -/

/-- A row's extra bits read back after its codeword. -/
theorem decodeRow_bitsOf (width e : Nat) (mk : Nat → Instr) (rest : Bits) :
    decodeRow (width, mk) (bitsOf width e ++ rest) = .ok (mk (e % 2 ^ width), rest) := by
  simp [decodeRow]

section
variable {T : Table} {bs rest : Bits} {sym : Nat} {row : SymbolRow} (h : decodeSymbol T bs = .ok (sym, rest))
include h

theorem decodeClSym_of_row {first : Bool} (hfirst : (first && sym == 16) = false) (hrow : clRows[sym]? = some row) :
    decodeClSym T first bs = decodeRow row rest := by
  simp [decodeClSym, h, hfirst, hrow]

theorem decodeLitSym_of_lit (hsym : sym < 256) : decodeLitSym T bs = .ok (.lit (.ofNat 8 sym), rest) := by
  simp [decodeLitSym, h, hsym]

theorem decodeLitSym_of_eob (hsym : sym = 256) : decodeLitSym T bs = .ok (.eob, rest) := by
  simp [decodeLitSym, h, hsym]

theorem decodeLitSym_of_row (hsym : 257 ≤ sym) (hrow : lengthRows[sym - 257]? = some row) :
    decodeLitSym T bs = decodeRow row rest := by
  simp [decodeLitSym, h, show ¬ sym < 256 by omega, show sym ≠ 256 by omega, hrow]

theorem decodeLitSym_of_invalid (hsym : 286 ≤ sym) : decodeLitSym T bs = .ok (.lenInvalid (.ofNat 9 sym), rest) := by
  have hrow : lengthRows[sym - 257]? = none := List.getElem?_eq_none (show 29 ≤ sym - 257 by omega)
  simp [decodeLitSym, h, show ¬ sym < 256 by omega, show sym ≠ 256 by omega, hrow]

theorem decodeDistSym_of_row (hrow : distanceRows[sym]? = some row) : decodeDistSym T bs = decodeRow row rest := by
  simp [decodeDistSym, h, hrow]

theorem decodeDistSym_of_invalid (hsym : 30 ≤ sym) : decodeDistSym T bs = .ok (.distInvalid (.ofNat 5 sym), rest) := by
  have hrow : distanceRows[sym]? = none := List.getElem?_eq_none hsym
  simp [decodeDistSym, h, hrow]

end

/-- The symbol of an encoded token is read, and its extra bits are left. -/
theorem Table.Canonical.decodeSymbol_encodeSymbol {T : Table} (hT : T.Canonical) {sym : Nat} (hlen : 0 < T.lenAt sym)
    (width e : Nat) (rest : Bits) :
    decodeSymbol T (encodeSymbol T sym width e ++ rest) = .ok (sym, bitsOf width e ++ rest) := by
  rw [encodeSymbol, List.append_assoc, hT.decodeSymbol_codeword hlen]

/-! ## Tokens -/

/-- Every token without a codeword reads back, with any table. -/
theorem decode_encode_of_fields {i : Instr} (hwf : i.wf = true) (hnone : symbolOf i = none) (T : Table) (rest : Bits) :
    decode (siteOf i) T (encode T i ++ rest) = .ok (i, rest) := by
  cases i with
  | tagRec first last label => exact decodeTagRec_encode (of_decide_eq_true hwf) first last T rest
  | chunkSlice nkeys flags label =>
    simpa [encode, siteOf, decode, decodeChunkType] using decodeSliceBody_encode hwf rest
  | chunkOther type => exact decodeChunkOther_encode (by simpa [Instr.wf] using hwf) T rest
  | palEntryNamed flags => exact decodePalEntryNamed_encode hwf T rest
  | adler32Trailer adler => exact decodeTrailer_encode adler T rest
  | zlibDictid id => exact decodeDictId_encode id T rest
  | palEntry flags r g b a =>
    have hname : hasName flags = false := by simpa [Instr.wf, hasName] using hwf
    simp [encode, siteOf, decode, decodePalEntry, hname]
  | celTypeOther type =>
    have htype : type.toNat ≠ 2 := fun h => by simp [Instr.wf, BitVec.eq_of_toNat_eq (y := 2) h] at hwf
    simp [encode, siteOf, decode, decodeCelType, htype]
  | zlibHdr cmf flg =>
    have hok : zlibHeaderOk cmf flg = true := hwf
    simp [encode, siteOf, decode, decodeZlibHdr, takeBits_bitsOf, hok]
  | blkHdr bfinal btype => cases bfinal <;> simp [encode, siteOf, decode, decodeBlkHdr]
  | start flip => cases flip <;> simp [encode, siteOf, decode, decodeCtrl]
  | fileHdr | frameHdr | chunkHdr | chunkPalette | chunkCel | chunkTags | celCompressed | sliceKey | blkStored
  | blkFixed | blkDynamic | blkReserved | storedHdr | dynHdr | clLen =>
    simp [encode, siteOf, decode, decodeFileHdr, decodeFrameHdr, decodeChunkHdr, decodeChunkType, decodePaletteBody,
      decodeCelBody, decodeTagsBody, decodeCelType, decodeSliceKey, decodeBlkType, decodeStoredHdr, decodeDynHdr,
      decodeClLen]
  | _ => cases hnone

/-- Every token with a codeword reads back, with a canonical table that uses its symbol. -/
theorem decode_encode_of_symbol {i : Instr} {T : Table} {sym : Nat} (hwf : i.wf = true) (hsym : symbolOf i = some sym)
    (hT : T.Canonical) (hlen : 0 < T.lenAt sym) (rest : Bits) :
    decode (siteOf i) T (encode T i ++ rest) = .ok (i, rest) := by
  have hd := fun width e => hT.decodeSymbol_encodeSymbol hlen width e rest
  cases i with
  | clLit0 | clLit1 | clLit2 | clLit3 | clLit4 | clLit5 | clLit6 | clLit7 | clLit8 | clLit9 | clLit10 | clLit11
  | clLit12 | clLit13 | clLit14 | clLit15 | clRep16 | clZero17 | clZero18 =>
    cases hsym
    exact ((decodeClSym_of_row (hd _ _) rfl rfl).trans (decodeRow_bitsOf _ _ _ _)).trans (by simp)
  | lit b => cases hsym; exact (decodeLitSym_of_lit (hd 0 0) b.isLt).trans (by simp [bitsOf])
  | eob => cases hsym; exact decodeLitSym_of_eob (hd 0 0) rfl
  | len257 | len258 | len259 | len260 | len261 | len262 | len263 | len264 | len265 | len266 | len267 | len268 | len269
  | len270 | len271 | len272 | len273 | len274 | len275 | len276 | len277 | len278 | len279 | len280 | len281 | len282
  | len283 | len284 | len285 =>
    cases hsym
    exact ((decodeLitSym_of_row (hd _ _) (by decide) rfl).trans (decodeRow_bitsOf _ _ _ _)).trans (by simp)
  | lenInvalid code =>
    cases hsym
    have hcode : code = 286 ∨ code = 287 := by simpa [Instr.wf] using hwf
    have h286 : 286 ≤ code.toNat := by rcases hcode with rfl | rfl <;> decide
    exact (decodeLitSym_of_invalid (hd 0 0) h286).trans (by simp [bitsOf])
  | dist0 | dist1 | dist2 | dist3 | dist4 | dist5 | dist6 | dist7 | dist8 | dist9 | dist10 | dist11 | dist12 | dist13
  | dist14 | dist15 | dist16 | dist17 | dist18 | dist19 | dist20 | dist21 | dist22 | dist23 | dist24 | dist25 | dist26
  | dist27 | dist28 | dist29 =>
    cases hsym
    exact ((decodeDistSym_of_row (hd _ _) rfl).trans (decodeRow_bitsOf _ _ _ _)).trans (by simp)
  | distInvalid code =>
    cases hsym
    have hcode : code = 30 ∨ code = 31 := by simpa [Instr.wf] using hwf
    have h30 : 30 ≤ code.toNat := by rcases hcode with rfl | rfl <;> decide
    exact (decodeDistSym_of_invalid (hd 0 0) h30).trans (by simp [bitsOf])
  | _ => cases hsym

/-- Settles O46: a token without a codeword reads back field by field; a token with one because the canonical table
decodes the codeword to its own symbol, whose row reads the extra bits. -/
theorem decodeEncode : Obligations.DecodeEncode := by
  unfold Obligations.DecodeEncode
  intro i T rest hwf hsymbol
  cases hsym : symbolOf i with
  | none => exact decode_encode_of_fields hwf hsym T rest
  | some sym =>
    obtain ⟨hlen, _, _, _, hbuilt⟩ := hsymbol sym hsym
    exact decode_encode_of_symbol hwf hsym (canonical_of_buildTable hbuilt) hlen rest

end Sys2Proof.Machine
end

section
/-! SUPPORT. What the decoder gives where it gives a token: a well-formed one, and the bits after those it took. -/

namespace Sys2Proof.Machine

open Sys2Proof.Safety

/-- A decoder's answer on `bs`, if a token: a well-formed one, and what `bs` holds after `n` or more bits. -/
def Reads (n : Nat) (bs : Bits) : Decoded → Prop
  | .ok (i, rest) => i.wf = true ∧ ∃ used : Bits, n ≤ used.length ∧ bs = used ++ rest
  | .error _ => True

theorem reads_ok {i : Instr} (hwf : i.wf = true) (bs : Bits) : Reads 0 bs (.ok (i, bs)) := ⟨hwf, [], le_rfl, rfl⟩

/-- Bits taken in front of what a decoder reads are taken too. -/
theorem Reads.append {m n : Nat} {front bs : Bits} {r : Decoded} (h : Reads m bs r) (hn : n ≤ front.length + m) :
    Reads n (front ++ bs) r := by
  match r with
  | .error _ => trivial
  | .ok (i, rest) =>
    obtain ⟨hwf, used, hm, rfl⟩ := h
    exact ⟨hwf, front ++ used, by simp only [List.length_append]; omega, by rw [List.append_assoc]⟩

/-- The bits of a field stand in front of those it leaves. -/
theorem takeBits_split {n v : Nat} {bs rest : Bits} (h : takeBits n bs = some (v, rest)) :
    ∃ front : Bits, front.length = n ∧ bs = front ++ rest := by
  have hlen := (takeBits_some h).2
  rw [takeBits_eq, if_neg (by omega)] at h
  cases h
  exact ⟨bs.take n, List.length_take_of_le (by omega), (List.take_append_drop n bs).symm⟩

/-- The bits of a label stand in front of those it leaves. -/
theorem takeBytes_split {n : Nat} {bs rest : Bits} {label : List Byte} (h : takeBytes n bs = some (label, rest)) :
    label.length = n ∧ ∃ front : Bits, bs = front ++ rest := by
  induction n generalizing bs label with
  | zero => cases h; exact ⟨rfl, [], rfl⟩
  | succ n ih =>
    simp only [takeBytes] at h
    split at h
    · cases h
    · rename_i v mid hv
      obtain ⟨p, hp, heq⟩ := Option.map_eq_some_iff.1 h
      cases heq
      obtain ⟨hlen, front, rfl⟩ := ih hp
      obtain ⟨byte, -, rfl⟩ := takeBits_split hv
      exact ⟨by simp [hlen], byte ++ front, (List.append_assoc ..).symm⟩

theorem reads_field {m n : Nat} {bs : Bits} {k : Nat → Bits → Decoded}
    (hk : ∀ v rest, v < 2 ^ n → Reads 0 rest (k v rest)) (hm : m ≤ n := by decide) : Reads m bs (field n bs k) := by
  unfold field
  split
  · trivial
  · rename_i v rest hv
    obtain ⟨front, hfront, rfl⟩ := takeBits_split hv
    exact (hk v rest (takeBits_some hv).1).append (by omega)

theorem reads_skip {m n : Nat} {bs : Bits} {k : Bits → Decoded} (hk : ∀ rest, Reads 0 rest (k rest))
    (hm : m ≤ n := by decide) : Reads m bs (skip n bs k) := by
  unfold skip
  split
  · trivial
  · have happend := (hk (bs.drop n)).append (front := bs.take n) (n := m)
      (by rw [List.length_take_of_le (by omega)]; omega)
    rwa [List.take_append_drop] at happend

/-- A decoder goes on after a codeword with the bits after it (41_huffman.md R173). -/
theorem decodeSymbol_split {T : Table} {sym : Nat} {bs rest : Bits} (h : decodeSymbol T bs = .ok (sym, rest)) :
    (sym ∈ T.sorted ∨ sym = 0) ∧ ∃ front : Bits, 1 ≤ front.length ∧ bs = front ++ rest := by
  obtain ⟨⟨n, h1, -, rfl, hn⟩, hsym⟩ := decodeFrom_ok h
  exact ⟨hsym, bs.take n, by rwa [List.length_take_of_le hn], (List.take_append_drop n bs).symm⟩

theorem decodeSymbol_lt {T : Table} {sym n : Nat} {bs rest : Bits} (h : decodeSymbol T bs = .ok (sym, rest))
    (hT : ∀ s ∈ T.sorted, s < n) (hn : 0 < n) : sym < n := by
  rcases (decodeSymbol_split h).1 with hsym | rfl
  · exact hT _ hsym
  · exact hn

/-- A symbol's row reads on after its codeword. -/
theorem reads_symbol {T : Table} {sym : Nat} {bs rest : Bits} {r : Decoded} (h : decodeSymbol T bs = .ok (sym, rest))
    (hr : Reads 0 rest r) : Reads 1 bs r := by
  obtain ⟨-, front, hfront, rfl⟩ := decodeSymbol_split h
  exact hr.append (by omega)

theorem reads_row {rows : List SymbolRow} {row : SymbolRow} {j : Nat} {bs : Bits}
    (hrows : ∀ row ∈ rows, ∀ e, (row.2 e).wf = true) (hj : rows[j]? = some row) : Reads 0 bs (decodeRow row bs) :=
  reads_field (fun e rest _ => reads_ok (hrows row (List.mem_of_getElem? hj) e) rest) (Nat.zero_le _)

theorem wf_clRows : ∀ row ∈ clRows, ∀ e, (row.2 e).wf = true := by simp [clRows, Instr.wf]

theorem wf_lengthRows : ∀ row ∈ lengthRows, ∀ e, (row.2 e).wf = true := by simp [lengthRows, Instr.wf]

theorem wf_distanceRows : ∀ row ∈ distanceRows, ∀ e, (row.2 e).wf = true := by simp [distanceRows, Instr.wf]

/-! ## The places -/

theorem reads_decodeSliceBody (bs : Bits) : Reads 0 bs (decodeSliceBody bs) := by
  refine reads_field fun _ _ _ => reads_field fun _ _ _ => reads_skip fun _ =>
    reads_field fun len bs hlen => ?_
  split
  · split
    · trivial
    · rename_i label rest hlabel
      obtain ⟨hlength, front, rfl⟩ := takeBytes_split hlabel
      exact (reads_ok (by simpa [Instr.wf, hlength] using hlen) rest).append (Nat.zero_le _)
  · exact reads_ok (by simp [Instr.wf]) bs

theorem reads_decodeChunkType (bs : Bits) : Reads 1 bs (decodeChunkType bs) := by
  refine reads_field fun type rest htype => ?_
  split
  · exact reads_field fun _ _ _ => reads_field fun _ _ _ => reads_field fun _ _ _ =>
      reads_skip fun _ => reads_ok rfl _
  split
  · exact reads_skip fun _ => reads_field fun _ _ _ => reads_field fun _ _ _ =>
      reads_skip fun _ => reads_ok rfl _
  split
  · exact reads_field fun _ _ _ => reads_skip fun _ => reads_ok rfl _
  split
  · exact reads_decodeSliceBody rest
  · have hother : knownChunkType (.ofNat 16 type) = false := by
      simp only [knownChunkType, Bool.or_eq_false_iff, beq_eq_false_iff_ne, ne_eq, ← BitVec.toNat_inj,
        BitVec.toNat_ofNat, Nat.mod_eq_of_lt htype]
      exact ⟨⟨⟨‹_›, ‹_›⟩, ‹_›⟩, ‹_›⟩
    exact reads_ok (by simp [Instr.wf, hother]) rest

theorem reads_decodePalEntry (bs : Bits) : Reads 1 bs (decodePalEntry bs) := by
  refine reads_field fun flags _ _ => reads_field fun _ _ _ => reads_field fun _ _ _ =>
    reads_field fun _ _ _ => reads_field fun _ rest _ => ?_
  split
  · rename_i hname; exact reads_ok (i := .palEntryNamed _) hname rest
  · rename_i hname; exact reads_ok (by simpa [Instr.wf, hasName] using hname) rest

theorem reads_decodeCelType (bs : Bits) : Reads 1 bs (decodeCelType bs) := by
  refine reads_field fun type rest htype => ?_
  split
  · exact reads_skip fun _ => reads_field fun _ _ _ => reads_field fun _ _ _ =>
      reads_ok rfl _
  · rename_i hother
    have hne : BitVec.ofNat 16 type ≠ 2 := by
      rwa [ne_eq, ← BitVec.toNat_inj, BitVec.toNat_ofNat, Nat.mod_eq_of_lt htype]
    exact reads_ok (by simpa [Instr.wf] using hne) rest

theorem reads_decodeTagRec (bs : Bits) : Reads 1 bs (decodeTagRec bs) := by
  refine reads_field fun _ _ _ => reads_field fun _ _ _ => reads_skip fun _ =>
    reads_field fun len _ hlen => ?_
  split
  · trivial
  · rename_i label rest hlabel
    obtain ⟨hlength, front, rfl⟩ := takeBytes_split hlabel
    exact (reads_ok (by simpa [Instr.wf, hlength] using hlen) rest).append (Nat.zero_le _)

theorem reads_decodeSliceKey (bs : Bits) : Reads 1 bs (decodeSliceKey bs) := by
  unfold decodeSliceKey
  exact reads_skip fun _ => reads_field fun _ _ _ => reads_field fun _ _ _ =>
    reads_field fun _ _ _ => reads_field fun _ _ _ => reads_ok rfl _

theorem reads_decodeZlibHdr (bs : Bits) : Reads 1 bs (decodeZlibHdr bs) := by
  unfold decodeZlibHdr
  split
  · trivial
  rename_i cmf mid hcmf
  split
  · trivial
  rename_i flg rest hflg
  obtain ⟨front, hfront, rfl⟩ := takeBits_split hcmf
  obtain ⟨front', -, rfl⟩ := takeBits_split hflg
  split
  · rename_i hok
    exact ((reads_ok (i := .zlibHdr _ _) hok rest).append (Nat.zero_le _)).append (by omega)
  · trivial

theorem reads_decodeBlkType (bs : Bits) : Reads 1 bs (decodeBlkType bs) := by
  refine reads_field fun t rest _ => ?_
  split
  · exact reads_ok rfl rest
  split
  · exact reads_ok rfl rest
  split <;> exact reads_ok rfl rest

theorem reads_decodeClSym (T : Table) (first : Bool) (bs : Bits) : Reads 1 bs (decodeClSym T first bs) := by
  unfold decodeClSym
  split
  · trivial
  rename_i sym rest hsym
  refine reads_symbol hsym ?_
  split
  · exact reads_ok rfl rest
  split
  · rename_i hrow; exact reads_row wf_clRows hrow
  · trivial

theorem reads_decodeLitSym {T : Table} (hT : ∀ sym ∈ T.sorted, sym < 288) (bs : Bits) :
    Reads 1 bs (decodeLitSym T bs) := by
  unfold decodeLitSym
  split
  · trivial
  rename_i sym rest hsym
  refine reads_symbol hsym ?_
  split
  · exact reads_ok rfl rest
  split
  · exact reads_ok rfl rest
  split
  · rename_i hrow; exact reads_row wf_lengthRows hrow
  · rename_i hrow
    have hlow : 29 ≤ sym - 257 := List.getElem?_eq_none_iff.1 hrow
    have hhigh := decodeSymbol_lt hsym hT (by decide)
    obtain rfl | rfl : sym = 286 ∨ sym = 287 := by omega
    all_goals exact reads_ok (by decide) rest

theorem reads_decodeDistSym {T : Table} (hT : ∀ sym ∈ T.sorted, sym < 32) (bs : Bits) :
    Reads 1 bs (decodeDistSym T bs) := by
  unfold decodeDistSym
  split
  · trivial
  rename_i sym rest hsym
  refine reads_symbol hsym ?_
  split
  · rename_i hrow; exact reads_row wf_distanceRows hrow
  · rename_i hrow
    have hlow : 30 ≤ sym := List.getElem?_eq_none_iff.1 hrow
    have hhigh := decodeSymbol_lt hsym hT (by decide)
    obtain rfl | rfl : sym = 30 ∨ sym = 31 := by omega
    all_goals exact reads_ok (by decide) rest

theorem reads_decodeCtrl (bs : Bits) : Reads 1 bs (decodeCtrl bs) := by
  refine reads_field fun _ _ _ => reads_field fun _ _ _ => reads_skip fun rest => ?_
  split
  · exact reads_ok rfl rest
  · trivial

/-- With a table over the place's alphabet, the decoder gives well-formed tokens of one bit or more. -/
theorem reads_decode {site : Site} {T : Table} (hT : ∀ sym ∈ T.sorted, sym < alphabetSize site) (bs : Bits) :
    Reads 1 bs (decode site T bs) := by
  cases site with
  | fileHdr =>
    exact reads_field fun _ _ _ => reads_field fun _ _ _ => reads_field fun _ _ _ =>
      reads_field fun _ _ _ => reads_field fun _ _ _ => reads_field fun _ _ _ =>
      reads_skip fun _ => reads_field fun _ _ _ => reads_skip fun _ =>
      reads_ok rfl _
  | frameHdr =>
    exact reads_field fun _ _ _ => reads_field fun _ _ _ => reads_field fun _ _ _ =>
      reads_field fun _ _ _ => reads_skip fun _ => reads_field fun _ _ _ =>
      reads_ok rfl _
  | sliceKey => exact reads_decodeSliceKey bs
  | trailer =>
    exact reads_field fun _ _ _ => reads_field fun _ _ _ => reads_field fun _ _ _ =>
      reads_field fun _ _ _ => reads_ok rfl _
  | chunkHdr | dictId | blkHdr | storedHdr =>
    exact reads_field fun _ _ _ => reads_field fun _ _ _ => reads_ok rfl _
  | dynHdr =>
    exact reads_field fun _ _ _ => reads_field fun _ _ _ => reads_field fun _ _ _ =>
      reads_ok rfl _
  | clLen => exact reads_field fun _ _ _ => reads_ok rfl _
  | chunkType => exact reads_decodeChunkType bs
  | palEntry => exact reads_decodePalEntry bs
  | celType => exact reads_decodeCelType bs
  | tagRec => exact reads_decodeTagRec bs
  | zlibHdr => exact reads_decodeZlibHdr bs
  | blkType => exact reads_decodeBlkType bs
  | clSym first => exact reads_decodeClSym T first bs
  | litSym => exact reads_decodeLitSym hT bs
  | distSym => exact reads_decodeDistSym hT bs
  | ctrl => exact reads_decodeCtrl bs

/-- Settles O47: the decoder's answer at each place, and the place of its token. -/
theorem decodeGivesWellFormed : Obligations.DecodeGivesWellFormed := by
  unfold Obligations.DecodeGivesWellFormed
  intro site T bs rest i hd hT
  have hreads := reads_decode hT bs
  rw [hd] at hreads
  obtain ⟨hwf, used, hused, rfl⟩ := hreads
  refine ⟨hwf, ?_, used, List.ne_nil_of_length_pos hused, rfl⟩
  have hsite := siteOf_of_decode hd
  cases site with
  | clSym first => exact .inr ⟨first, rfl, hsite⟩
  | _ => exact .inl hsite

end Sys2Proof.Machine
end

section
/-! SUPPORT. The step at the engine's place (10_state.md R33). -/

namespace Sys2Proof.Machine

/-- Settles O49: what a step is, by the host's schedule and by what the decoder reads at the engine's place. -/
theorem stepRunsDecoded : Obligations.StepRunsDecoded :=
  ⟨fun _ _ _ _ hhost hsite hd => step_token hhost hsite hd, fun _ _ _ hhost hsite hd => step_rejected hhost hsite hd,
    fun _ _ hhost => step_wait hhost, fun _ _ _ hhost hop => step_host hhost hop⟩

end Sys2Proof.Machine
end

section
/-! SUPPORT. The bytes of a container record as the fields of its token (30_encoding.md R102 to R108). -/

namespace Sys2Proof.Machine

open Sys2Proof.Safety

/-! ## Fields of a record -/

theorem u32le_lt (s : State) (a : Nat) : u32le s a < 2 ^ 32 := by unfold u32le; omega

/-- The bits of the `l` bytes of `IN` from `a` on. -/
def recordBits (s : State) (a l : Nat) : Bits := bitsOfBytes (inBytes s a l)

@[simp] theorem recordBits_length (s : State) (a l : Nat) : (recordBits s a l).length = 8 * l := by simp [recordBits]

theorem byteBits_eq_recordBits (s : State) (a stop : Nat) : byteBits s a stop = recordBits s a (stop - a) := rfl

section
variable {α : Type} (s : State) (a : Nat) {l : Nat} (k : Nat → Bits → Except Reject α)

theorem field8_record (h : 1 ≤ l) :
    field 8 (recordBits s a l) k = k (inByte s a).toNat (recordBits s (a + 1) (l - 1)) := by
  obtain ⟨n, rfl⟩ := Nat.exists_eq_add_of_le' h
  exact field8_inBytes s a n k

theorem field16_record (h : 2 ≤ l) :
    field 16 (recordBits s a l) k = k (u16le s a) (recordBits s (a + 2) (l - 2)) := by
  obtain ⟨n, rfl⟩ := Nat.exists_eq_add_of_le' h
  exact field16_inBytes s a n k

theorem field32_record (h : 4 ≤ l) :
    field 32 (recordBits s a l) k = k (u32le s a) (recordBits s (a + 4) (l - 4)) := by
  obtain ⟨n, rfl⟩ := Nat.exists_eq_add_of_le' h
  exact field32_inBytes s a n k

theorem skip_record {w : Nat} (k : Bits → Except Reject α) (hw : 8 * (w / 8) = w) (h : w / 8 ≤ l) :
    skip w (recordBits s a l) k = k (recordBits s (a + w / 8) (l - w / 8)) :=
  skip_inBytes_of s a (w / 8) (l - w / 8) k hw.symm (by omega)

theorem takeBytes_record {m : Nat} (h : m ≤ l) :
    takeBytes m (recordBits s a l) = some (inBytes s a m, recordBits s (a + m) (l - m)) := by
  obtain ⟨n, rfl⟩ := Nat.exists_eq_add_of_le h
  simpa [recordBits] using takeBytes_inBytes s a m n

end

/-! ## Records -/

section
variable (s : State) (a : Nat) {l : Nat}

theorem decodeFileHdr_record (h : 128 ≤ l) :
    decodeFileHdr (recordBits s a l) = .ok (.fileHdr (.ofNat 32 (u32le s a)) (.ofNat 16 (u16le s (a + 4)))
      (.ofNat 16 (u16le s (a + 6))) (.ofNat 16 (u16le s (a + 8))) (.ofNat 16 (u16le s (a + 10)))
      (.ofNat 16 (u16le s (a + 12))) (inByte s (a + 28)), recordBits s (a + 128) (l - 128)) := by
  simp (disch := omega) [decodeFileHdr, field8_record, field16_record, field32_record, skip_record, Nat.sub_sub,
    Nat.add_assoc]

theorem decodeFrameHdr_record (h : 16 ≤ l) :
    decodeFrameHdr (recordBits s a l) = .ok (.frameHdr (.ofNat 32 (u32le s a)) (.ofNat 16 (u16le s (a + 4)))
      (.ofNat 16 (u16le s (a + 6))) (.ofNat 16 (u16le s (a + 8))) (.ofNat 32 (u32le s (a + 12))),
      recordBits s (a + 16) (l - 16)) := by
  simp (disch := omega) [decodeFrameHdr, field16_record, field32_record, skip_record, Nat.sub_sub, Nat.add_assoc]

theorem decodeChunkHdr_record (h : 6 ≤ l) :
    decodeChunkHdr (recordBits s a l) =
      .ok (.chunkHdr (.ofNat 32 (u32le s a)) (.ofNat 16 (u16le s (a + 4))), recordBits s (a + 6) (l - 6)) := by
  simp (disch := omega) [decodeChunkHdr, field16_record, field32_record, Nat.sub_sub, Nat.add_assoc]

theorem decodePaletteBody_record (h : 20 ≤ l) :
    decodePaletteBody (recordBits s a l) = .ok (.chunkPalette (.ofNat 32 (u32le s a)) (.ofNat 32 (u32le s (a + 4)))
      (.ofNat 32 (u32le s (a + 8))), recordBits s (a + 20) (l - 20)) := by
  simp (disch := omega) [decodePaletteBody, field32_record, skip_record, Nat.sub_sub, Nat.add_assoc]

theorem decodeCelBody_record (h : 16 ≤ l) :
    decodeCelBody (recordBits s a l) =
      .ok (.chunkCel (.ofNat 16 (u16le s (a + 2))) (.ofNat 16 (u16le s (a + 4))), recordBits s (a + 16) (l - 16)) := by
  simp (disch := omega) [decodeCelBody, field16_record, skip_record, Nat.sub_sub, Nat.add_assoc]

theorem decodeTagsBody_record (h : 10 ≤ l) :
    decodeTagsBody (recordBits s a l) = .ok (.chunkTags (.ofNat 16 (u16le s a)), recordBits s (a + 10) (l - 10)) := by
  simp (disch := omega) [decodeTagsBody, field16_record, skip_record, Nat.sub_sub, Nat.add_assoc]

theorem decodeSliceBody_record (hflags : u32le s (a + 4) = 0) (h : 14 + u16le s (a + 12) ≤ l) :
    decodeSliceBody (recordBits s a l) =
      .ok (.chunkSlice (.ofNat 32 (u32le s a)) 0 (inBytes s (a + 14) (u16le s (a + 12))),
        recordBits s (a + 14 + u16le s (a + 12)) (l - (14 + u16le s (a + 12)))) := by
  simp (disch := omega) [decodeSliceBody, field16_record, field32_record, skip_record, Nat.sub_sub, Nat.add_assoc,
    hflags, takeBytes_record]

theorem decodeSliceBody_record_flags (hflags : u32le s (a + 4) ≠ 0) (h : 14 ≤ l) :
    decodeSliceBody (recordBits s a l) =
      .ok (.chunkSlice (.ofNat 32 (u32le s a)) (.ofNat 32 (u32le s (a + 4))) [], recordBits s (a + 14) (l - 14)) := by
  simp (disch := omega) [decodeSliceBody, field16_record, field32_record, skip_record, Nat.sub_sub, Nat.add_assoc,
    hflags]

theorem decodeCelType_record (htype : u16le s a = 2) (h : 13 ≤ l) :
    decodeCelType (recordBits s a l) =
      .ok (.celCompressed (.ofNat 16 (u16le s (a + 9))) (.ofNat 16 (u16le s (a + 11))),
        recordBits s (a + 13) (l - 13)) := by
  simp (disch := omega) [decodeCelType, field16_record, skip_record, Nat.sub_sub, Nat.add_assoc, htype]

theorem decodeCelType_record_other (htype : u16le s a ≠ 2) (h : 2 ≤ l) :
    decodeCelType (recordBits s a l) = .ok (.celTypeOther (.ofNat 16 (u16le s a)), recordBits s (a + 2) (l - 2)) := by
  simp (disch := omega) [decodeCelType, field16_record, htype]

theorem decodeTagRec_record (h : 19 + u16le s (a + 17) ≤ l) :
    decodeTagRec (recordBits s a l) =
      .ok (.tagRec (.ofNat 16 (u16le s a)) (.ofNat 16 (u16le s (a + 2))) (inBytes s (a + 19) (u16le s (a + 17))),
        recordBits s (a + 19 + u16le s (a + 17)) (l - (19 + u16le s (a + 17)))) := by
  simp (disch := omega) [decodeTagRec, field16_record, skip_record, Nat.sub_sub, Nat.add_assoc, takeBytes_record]

theorem decodeSliceKey_record (h : 20 ≤ l) :
    decodeSliceKey (recordBits s a l) =
      .ok (.sliceKey (.ofNat 32 (u32le s (a + 4))) (.ofNat 32 (u32le s (a + 8))) (.ofNat 32 (u32le s (a + 12)))
        (.ofNat 32 (u32le s (a + 16))), recordBits s (a + 20) (l - 20)) := by
  simp (disch := omega) [decodeSliceKey, field32_record, skip_record, Nat.sub_sub, Nat.add_assoc]

end

/-! ## Steps -/

/-- A step at a place of `IN` whose `l` bytes hold a token of `n`. -/
theorem step_record {s : State} {site : Site} {i : Instr} {a b l n : Nat} (hhost : s.host = [])
    (hsite : nextSite s = some site) (hbits : siteBits site (enterSite site s) = recordBits s a l) (hn : n ≤ l)
    (hd : decode site (siteTable site (enterSite site s)) (recordBits s a l) = .ok (i, recordBits s b (l - n))) :
    step s = exec i (pastToken site (8 * n) s) := by
  rw [step_token hhost hsite (rest := recordBits s b (l - n)) (by rw [hbits, hd]), hbits, recordBits_length,
    recordBits_length, show 8 * l - 8 * (l - n) = 8 * n by omega]

theorem pastToken_tagRec (s : State) (n : Nat) : pastToken .tagRec (8 * n) s = { s with q := s.q + n } := by
  simp [pastToken, moveCursor, enterSite]

/-- A step at a chunk's type, whose body's `n` bytes stand from offset 6 on (30_encoding.md R104). -/
theorem step_chunkType {s : State} {i : Instr} {b n : Nat} (hhost : s.host = []) (hseq : s.seq = .chunkHdr)
    (hphase : s.phase = .tail) (hn : n ≤ s.chunkEnd - (s.chunkStart + 6))
    (hd : decodeChunkType (bitsOf 16 s.ctype.toNat ++
        recordBits s (s.chunkStart + 6) (s.chunkEnd - (s.chunkStart + 6))) =
      .ok (i, recordBits s b (s.chunkEnd - (s.chunkStart + 6) - n))) :
    step s = exec i { s with q := s.chunkStart + 6 + n } := by
  rw [step_token hhost (site := .chunkType) (by simp [nextSite, hseq, hphase]) hd]
  have hq : s.chunkStart + 4 + (16 + 8 * (s.chunkEnd - (s.chunkStart + 6)) -
      8 * (s.chunkEnd - (s.chunkStart + 6) - n)) / 8 = s.chunkStart + 6 + n := by omega
  simp only [pastToken, enterSite, moveCursor, siteBits, byteBits_eq_recordBits, Config.chunkHdrSize,
    List.length_append, bitsOf_length, recordBits_length, hq]

/-- A slice chunk with nonzero flags fails before its label is read (44_container.md R375). -/
theorem failsWith_execChunkSlice_flags (nkeys : Word) {flags : Word} (h : flags ≠ 0) (label : List Byte) (s : State)
    (q : Nat) : FailsWith .sliceFlags s.chunkStart s (exec (.chunkSlice nkeys flags label) { s with q := q }) := by
  have hraise : exec (.chunkSlice nkeys flags label) { s with q := q } = raise .sliceFlags { s with q := q } := if_pos h
  rw [hraise]
  exact failsWith_raise rfl rfl rfl rfl rfl rfl rfl rfl rfl

/-- Settles O19: the bytes at each place are its record's bits, whose fields the decoder reads in order. -/
theorem containerLayouts : Obligations.ContainerLayouts := by
  unfold Obligations.ContainerLayouts
  intro s hhost
  refine ⟨?fileHdr, ?frameHdr, ?chunkHdr, ?palette, ?cel, ?tags, ?slice, ?sliceFlags, ?celType, ?celTypeOther, ?tagRec,
    ?sliceKey⟩
  case fileHdr =>
    intro hseq hlen
    have hbits : siteBits .fileHdr s = recordBits s 0 128 := by
      rw [siteBits, Config.headerSize, min_eq_right hlen, byteBits_eq_recordBits]
    exact step_record (site := .fileHdr) hhost (by simp [nextSite, hseq]) hbits le_rfl (decodeFileHdr_record s 0 le_rfl)
  case frameHdr =>
    intro hseq hlen
    have hbits : siteBits .frameHdr (enterFrame s) = recordBits (enterFrame s) s.cur 16 := by
      rw [siteBits, enterFrame_fileSize, enterFrame_cur, Config.frameHdrSize, min_eq_right hlen, byteBits_eq_recordBits,
        Nat.add_sub_cancel_left]
    exact step_record (site := .frameHdr) hhost (by simp [nextSite, hseq]) hbits le_rfl
      (decodeFrameHdr_record s s.cur le_rfl)
  case chunkHdr =>
    intro hseq hphase hleft hlen
    have hbits : siteBits .chunkHdr (enterChunk s) = recordBits (enterChunk s) s.cur 6 := by
      rw [siteBits, enterChunk_frameEnd, enterChunk_cur, Config.chunkHdrSize, min_eq_right hlen, byteBits_eq_recordBits,
        Nat.add_sub_cancel_left]
    exact step_record (site := .chunkHdr) hhost (by simp [nextSite, hseq, hphase, hleft]) hbits le_rfl
      (decodeChunkHdr_record s s.cur le_rfl)
  case palette =>
    intro hseq hphase htype hlen
    have hn : 20 ≤ s.chunkEnd - (s.chunkStart + 6) := by omega
    have hd := decodePaletteBody_record s (s.chunkStart + 6) hn
    exact step_chunkType hhost hseq hphase hn (by simpa [htype, decodeChunkType] using hd)
  case cel =>
    intro hseq hphase htype hlen
    have hn : 16 ≤ s.chunkEnd - (s.chunkStart + 6) := by omega
    have hd := decodeCelBody_record s (s.chunkStart + 6) hn
    exact step_chunkType hhost hseq hphase hn (by simpa [htype, decodeChunkType] using hd)
  case tags =>
    intro hseq hphase htype hlen
    have hn : 10 ≤ s.chunkEnd - (s.chunkStart + 6) := by omega
    have hd := decodeTagsBody_record s (s.chunkStart + 6) hn
    exact step_chunkType hhost hseq hphase hn (by simpa [htype, decodeChunkType] using hd)
  case slice =>
    intro hseq hphase htype hflags hlen
    have hn : 14 + u16le s (s.chunkStart + 18) ≤ s.chunkEnd - (s.chunkStart + 6) := by omega
    have hd := decodeSliceBody_record s (s.chunkStart + 6) hflags hn
    have hstep := step_chunkType hhost hseq hphase hn (by simpa [htype, decodeChunkType] using hd)
    rwa [← Nat.add_assoc (s.chunkStart + 6)] at hstep
  case sliceFlags =>
    intro hseq hphase htype hflags hlen
    have hn : 14 ≤ s.chunkEnd - (s.chunkStart + 6) := by omega
    have hd := decodeSliceBody_record_flags s (s.chunkStart + 6) hflags hn
    have hstep := step_chunkType hhost hseq hphase hn (by simpa [htype, decodeChunkType] using hd)
    have hword : BitVec.ofNat 32 (u32le s (s.chunkStart + 10)) ≠ 0 := by
      rw [ne_eq, ← BitVec.toNat_inj, BitVec.toNat_ofNat, Nat.mod_eq_of_lt (u32le_lt s _)]
      exact hflags
    refine ⟨hstep, ?_⟩
    rw [hstep]
    exact failsWith_execChunkSlice_flags _ hword _ s _
  case celType =>
    intro hseq hlen htype
    have hn : 13 ≤ s.chunkEnd - (s.chunkStart + 13) := by omega
    exact step_record (site := .celType) hhost (by simp [nextSite, hseq]) rfl hn (decodeCelType_record s _ htype hn)
  case celTypeOther =>
    intro hseq hlen htype
    have hn : 2 ≤ s.chunkEnd - (s.chunkStart + 13) := by omega
    exact step_record (site := .celType) hhost (by simp [nextSite, hseq]) rfl hn
      (decodeCelType_record_other s _ htype hn)
  case tagRec =>
    intro hseq hleft hlen
    have hn : 19 + u16le s (s.q + 17) ≤ s.chunkEnd - s.q := by omega
    have hstep := step_record (site := .tagRec) hhost (by simp [nextSite, hseq, hleft]) rfl hn
      (decodeTagRec_record s s.q hn)
    rwa [pastToken_tagRec, ← Nat.add_assoc] at hstep
  case sliceKey =>
    intro hseq hlen
    have hn : 20 ≤ s.chunkEnd - s.q := by omega
    exact step_record (site := .sliceKey) hhost (by simp [nextSite, hseq]) rfl hn (decodeSliceKey_record s s.q hn)

end Sys2Proof.Machine
end

section
/-! SUPPORT. The bits of the stream as the fields of the envelope and block tokens (30_encoding.md R110 to R113). -/

namespace Sys2Proof.Machine

open Sys2Proof.Safety

/-! ## Fields of the stream -/

theorem advanceBits_advanceBits (m n : Nat) (s : State) : advanceBits n (advanceBits m s) = advanceBits (m + n) s := by
  simp [advanceBits, Nat.add_assoc]

/-- A field `m` bits after the reader's position. -/
theorem field_advanceBits {α : Type} (s : State) (m n : Nat) (k : Nat → Bits → Except Reject α) (h : m + n ≤ avail s) :
    field n (bitStream (advanceBits m s)) k =
      k (streamField s (s.brPos + m) n) (bitStream (advanceBits (m + n) s)) := by
  rw [field_bitStream _ _ _ (by rw [avail_advanceBits]; omega), advanceBits_advanceBits]
  rfl

theorem streamField_byteAlign (s : State) (p n : Nat) : streamField (byteAlign s) p n = streamField s p n := rfl

theorem streamField_one (s : State) (p : Nat) : streamField s p 1 = (streamBit s p).toNat := by simp [streamField]

theorem bitsOf_getElem? {n i : Nat} (v : Nat) (h : i < n) : (bitsOf n v)[i]? = some (v.testBit i) := by
  induction n generalizing i v with
  | zero => omega
  | succ n ih =>
    cases i with
    | zero => simp [bitsOf, Nat.testBit_zero, BEq.beq]
    | succ i => simpa [bitsOf, Nat.testBit_succ] using ih (v / 2) (by omega)

/-- Bit `i` of a sequence of bytes is bit `i mod 8` of byte `i / 8` (00_scope.md R15). -/
theorem bitsOfBytes_getElem? (l : List Byte) (i : Nat) :
    (bitsOfBytes l)[i]? = l[i / 8]?.map fun b => b.getLsbD (i % 8) := by
  induction l generalizing i with
  | nil => rfl
  | cons b l ih =>
    by_cases h : i < 8
    · rw [bitsOfBytes, List.getElem?_append_left (by simpa using h), bitsOf_getElem? _ h, Nat.div_eq_of_lt h,
        Nat.mod_eq_of_lt h]
      rfl
    · obtain ⟨j, rfl⟩ := Nat.exists_eq_add_of_le (not_lt.1 h)
      rw [bitsOfBytes, List.getElem?_append_right (by simp), bitsOf_length, Nat.add_sub_cancel_left, ih]
      simp

/-- At a byte boundary the stream is the bytes from there on (40_bit_reader.md R151). -/
theorem bitStream_aligned {s : State} {a : Nat} (h : s.brPos = 8 * a) :
    bitStream s = recordBits s (s.brStart + a) (s.brEnd - s.brStart - a) := by
  apply List.ext_getElem?
  intro i
  rw [recordBits, bitsOfBytes_getElem?]
  have hbyte : (8 * a + i) / 8 = a + i / 8 := by omega
  by_cases hi : i < avail s
  · have hi8 : i / 8 < s.brEnd - s.brStart - a := by simp only [avail, h] at hi; omega
    simp [bitStream, inBytes, hi, hi8, streamBit, h, hbyte, Nat.add_assoc]
  · have hi8 : s.brEnd - s.brStart - a ≤ i / 8 := by simp only [avail, h] at hi; omega
    simp [bitStream, inBytes, hi, hi8]

/-! ## Tokens -/

section
variable {s : State}

theorem decodeDictId_stream (h : 32 ≤ avail s) :
    decodeDictId (bitStream s) =
      .ok (.zlibDictid (.ofNat 32 (streamField s s.brPos 32)), bitStream (advanceBits 32 s)) :=
  (field_add 16 16 (bitStream s) fun v rest => .ok (Instr.zlibDictid (.ofNat 32 v), rest)).symm.trans
    (field_bitStream s 32 _ h)

theorem decodeBlkHdr_stream (h : 3 ≤ avail s) :
    decodeBlkHdr (bitStream s) =
      .ok (.blkHdr (streamBit s s.brPos) (.ofNat 2 (streamField s (s.brPos + 1) 2)), bitStream (advanceBits 3 s)) := by
  simp (disch := omega) [decodeBlkHdr, field_bitStream, field_advanceBits, streamField_one]

theorem decodeStoredHdr_stream (h : 32 ≤ avail s) :
    decodeStoredHdr (bitStream s) =
      .ok (.storedHdr (.ofNat 16 (streamField s s.brPos 16)) (.ofNat 16 (streamField s (s.brPos + 16) 16)),
        bitStream (advanceBits 32 s)) := by
  simp (disch := omega) [decodeStoredHdr, field_bitStream, field_advanceBits]

theorem decodeDynHdr_stream (h : 14 ≤ avail s) :
    decodeDynHdr (bitStream s) =
      .ok (.dynHdr (.ofNat 5 (streamField s s.brPos 5)) (.ofNat 5 (streamField s (s.brPos + 5) 5))
        (.ofNat 4 (streamField s (s.brPos + 10) 4)), bitStream (advanceBits 14 s)) := by
  simp (disch := omega) [decodeDynHdr, field_bitStream, field_advanceBits]

theorem decodeClLen_stream (h : 3 ≤ avail s) :
    decodeClLen (bitStream s) = .ok (.clLen (.ofNat 3 (streamField s s.brPos 3)), bitStream (advanceBits 3 s)) :=
  field_bitStream s 3 _ h

end

/-- The trailer is big-endian (20_memory.md R80). -/
theorem decodeTrailer_record (s : State) (a : Nat) {l : Nat} (h : 4 ≤ l) :
    decodeTrailer (recordBits s a l) =
      .ok (.adler32Trailer (.ofNat 32 (bigEndian (inByte s a).toNat (inByte s (a + 1)).toNat (inByte s (a + 2)).toNat
        (inByte s (a + 3)).toNat)), recordBits s (a + 4) (l - 4)) := by
  simp (disch := omega) [decodeTrailer, field8_record, Nat.sub_sub, Nat.add_assoc]

/-- The block type read is the one BLK_HDR stored (42_inflate.md R200). -/
theorem decodeBlkType_word (t : BitVec 2) :
    decodeBlkType (bitsOf 2 t.toNat) =
      .ok (if t = 0 then .blkStored else if t = 1 then .blkFixed else if t = 2 then .blkDynamic else .blkReserved,
        []) := by
  obtain rfl | rfl | rfl | rfl : t = 0 ∨ t = 1 ∨ t = 2 ∨ t = 3 := by bv_omega
  all_goals rfl

/-! ## Steps -/

/-- A step at a place of the stream whose token takes `n` bits. -/
theorem step_stream {s t : State} {site : Site} {i : Instr} {n : Nat} (hhost : s.host = [])
    (hsite : nextSite s = some site) (ht : enterSite site s = t) (hbits : siteBits site t = bitStream t)
    (hn : n ≤ avail t) (hd : decode site (siteTable site t) (bitStream t) = .ok (i, bitStream (advanceBits n t))) :
    step s = exec i (moveCursor site n t) := by
  subst ht
  rw [step_token hhost hsite (rest := bitStream (advanceBits n (enterSite site s))) (by rw [hbits, hd]), hbits,
    bitStream_length, bitStream_length, avail_advanceBits, Nat.sub_sub_self hn]
  rfl

/-- Settles O20: the bits at each place are the reader's, whose fields the decoder reads in order. -/
theorem streamLayouts : Obligations.StreamLayouts := by
  unfold Obligations.StreamLayouts
  intro s hhost
  refine ⟨?dictId, ?blkHdr, ?blkType, ?storedHdr, ?dynHdr, ?clLen, ?trailer⟩
  case dictId =>
    intro hseq hphase hn
    exact step_stream (site := .dictId) hhost (by simp [nextSite, hseq, hphase]) rfl rfl hn (decodeDictId_stream hn)
  case blkHdr =>
    intro hseq hphase hn
    exact step_stream (site := .blkHdr) hhost (by simp [nextSite, hseq, hphase]) rfl rfl hn (decodeBlkHdr_stream hn)
  case blkType =>
    intro hseq hphase
    exact step_token (site := .blkType) hhost (by simp [nextSite, hseq, hphase]) (decodeBlkType_word s.btype)
  case storedHdr =>
    intro p hseq hp hn
    subst hp
    have hd := decodeStoredHdr_stream (s := byteAlign s) hn
    rw [streamField_byteAlign, streamField_byteAlign, byteAlign_brPos] at hd
    have hstep := step_stream (site := .storedHdr) hhost (by simp [nextSite, hseq]) rfl rfl hn hd
    exact hstep
  case dynHdr =>
    intro hseq hn
    exact step_stream (site := .dynHdr) hhost (by simp [nextSite, hseq]) rfl rfl hn (decodeDynHdr_stream hn)
  case clLen =>
    intro hseq hleft hn
    exact step_stream (site := .clLen) hhost (by simp [nextSite, hseq, hleft]) rfl rfl hn (decodeClLen_stream hn)
  case trailer =>
    intro a hseq ha hn
    have hbits : siteBits .trailer (byteAlign s) = recordBits s (s.brStart + a) (s.brEnd - s.brStart - a) :=
      bitStream_aligned (s := byteAlign s) ha
    have h4 : 4 ≤ s.brEnd - s.brStart - a := by simp only [avail] at hn; omega
    rw [← ha]
    exact step_record (site := .trailer) hhost (by simp [nextSite, hseq]) hbits h4 (decodeTrailer_record s _ h4)

end Sys2Proof.Machine
end

section
/-! SUPPORT. The fixed tables (41_huffman.md R180, R181): where their symbols stand, and their codewords. -/

namespace Sys2Proof.Machine

open Sys2Proof.Safety

/-- The one place among its length's symbols where a symbol stands gives its codeword (R171). -/
theorem Table.Canonical.codeword_of_place {T : Table} (h : T.Canonical) {s l j : Nat} (hl : T.lenAt s = l) (h0 : 0 < l)
    (hplace : ∀ i < T.countAt l, T.sorted.getD (T.indexAt l + i) 0 = s → i = j) :
    T.codeword s = codeBits l (T.firstAt l + j) := by
  subst hl
  obtain ⟨i, hi, hcode, hsorted⟩ := h.codeOf_eq h0
  rw [Table.codeword, hcode, hplace i hi hsorted]

theorem eq_tableOf {r : Except Cause Table} (h : r.toOption.isSome = true) : r = .ok (tableOf r) := by
  cases r with
  | error => cases h
  | ok T => rfl

theorem buildFixedLit_eq : buildFixedLit = .ok fixedLitTable := eq_tableOf (by decide +kernel)

theorem buildFixedDist_eq : buildFixedDist = .ok fixedDistTable := eq_tableOf (by decide +kernel)

theorem fixedLitTable_canonical : fixedLitTable.Canonical := canonical_of_buildTable buildFixedLit_eq

theorem fixedDistTable_canonical : fixedDistTable.Canonical := canonical_of_buildTable buildFixedDist_eq

/-! ## Lengths -/

theorem fixedLitTable_len : fixedLitTable.len = fixedLitLengths := by decide +kernel

theorem fixedDistTable_lenAt {k : Nat} (hk : k < 32) : fixedDistTable.lenAt k = 5 := by
  have hlen : fixedDistTable.len = fixedDistLengths := by decide +kernel
  rw [Table.lenAt, hlen, fixedDistLengths, List.getD_replicate _ hk]

/-- The lengths of the four ranges of literal/length symbols (R180). -/
theorem fixedLitTable_lenAt {k : Nat} (hk : k < 288) :
    fixedLitTable.lenAt k = if k < 144 then 8 else if k < 256 then 9 else if k < 280 then 7 else 8 := by
  rw [Table.lenAt, fixedLitTable_len, fixedLitLengths]
  simp only [List.getD_eq_getElem?_getD, List.getElem?_append, List.getElem?_replicate, List.length_append,
    List.length_replicate]
  split_ifs <;> grind

/-! ## Places -/

theorem fixedLitTable_place7 : ∀ i < fixedLitTable.countAt 7,
    fixedLitTable.sorted.getD (fixedLitTable.indexAt 7 + i) 0 = 256 + i := by decide +kernel

theorem fixedLitTable_place8 : ∀ i < fixedLitTable.countAt 8,
    fixedLitTable.sorted.getD (fixedLitTable.indexAt 8 + i) 0 = if i < 144 then i else 136 + i := by decide +kernel

theorem fixedLitTable_place9 : ∀ i < fixedLitTable.countAt 9,
    fixedLitTable.sorted.getD (fixedLitTable.indexAt 9 + i) 0 = 144 + i := by decide +kernel

theorem fixedDistTable_place5 : ∀ i < fixedDistTable.countAt 5,
    fixedDistTable.sorted.getD (fixedDistTable.indexAt 5 + i) 0 = i := by decide +kernel

theorem fixedTables_first : fixedLitTable.firstAt 7 = 0 ∧ fixedLitTable.firstAt 8 = 0x30 ∧
    fixedLitTable.firstAt 9 = 0x190 ∧ fixedDistTable.firstAt 5 = 0 := by decide +kernel

/-- Settles O42: each symbol's length and its place among the symbols of that length. -/
theorem fixedCodewords : Obligations.FixedCodewords := by
  unfold Obligations.FixedCodewords
  obtain ⟨hfirst7, hfirst8, hfirst9, hfirst5⟩ := fixedTables_first
  refine ⟨congrArg Except.toOption buildFixedLit_eq, congrArg Except.toOption buildFixedDist_eq, ?lit8, ?lit9, ?lit7,
    ?lit8', ?dist⟩
  case lit8 =>
    intro k hk
    rw [← hfirst8]
    refine fixedLitTable_canonical.codeword_of_place (by rw [fixedLitTable_lenAt (by omega), if_pos hk]) (by decide) ?_
    intro i hi hs
    rw [fixedLitTable_place8 i hi] at hs
    split at hs <;> omega
  case lit9 =>
    intro k hk
    rw [← hfirst9]
    refine fixedLitTable_canonical.codeword_of_place
      (by rw [fixedLitTable_lenAt (by omega), if_neg (by omega), if_pos (by omega)]) (by decide) ?_
    exact fun i hi hs => Nat.add_left_cancel ((fixedLitTable_place9 i hi).symm.trans hs)
  case lit7 =>
    intro k hk
    have hlen : fixedLitTable.lenAt (256 + k) = 7 := by
      rw [fixedLitTable_lenAt (by omega), if_neg (by omega), if_neg (by omega), if_pos (by omega)]
    have hcode := fixedLitTable_canonical.codeword_of_place (j := k) hlen (by decide)
      fun i hi hs => Nat.add_left_cancel ((fixedLitTable_place7 i hi).symm.trans hs)
    rwa [hfirst7, Nat.zero_add] at hcode
  case lit8' =>
    intro k hk
    rw [show 0xC0 + k = 0x30 + (144 + k) by omega, ← hfirst8]
    refine fixedLitTable_canonical.codeword_of_place
      (by rw [fixedLitTable_lenAt (by omega), if_neg (by omega), if_neg (by omega), if_neg (by omega)]) (by decide) ?_
    intro i hi hs
    rw [fixedLitTable_place8 i hi] at hs
    split at hs <;> omega
  case dist =>
    intro k hk
    have hcode := fixedDistTable_canonical.codeword_of_place (j := k) (fixedDistTable_lenAt hk) (by decide)
      fun i hi hs => (fixedDistTable_place5 i hi).symm.trans hs
    rwa [hfirst5, Nat.zero_add] at hcode

/-! ## Words -/

/-- A word that is a token's encoding decodes to the token, with nothing left. -/
theorem decode_of_eq_encode {i : Instr} {T : Table} {bs : Bits} (hwf : i.wf = true)
    (hsymbol : ∀ sym, symbolOf i = some sym → 0 < T.lenAt sym ∧
      ∃ (lengths : List Nat) (numRead numTotal : Nat), buildTable lengths numRead numTotal = .ok T)
    (hbs : bs = encode T i) : (decode (siteOf i) T bs).toOption = some (i, []) := by
  have hd := decodeEncode i T [] hwf hsymbol
  rw [List.append_nil, ← hbs] at hd
  rw [hd]
  rfl

/-- A word of a place that reads no symbol. -/
theorem decode_field_word {i : Instr} {bs : Bits} (hwf : i.wf = true) (hnone : symbolOf i = none)
    (hbs : bs = encode Table.empty i) : (decode (siteOf i) Table.empty bs).toOption = some (i, []) :=
  decode_of_eq_encode hwf (fun sym hsym => by rw [hnone] at hsym; cases hsym) hbs

/-- A word of the fixed literal/length code. -/
theorem decode_fixedLit_word {i : Instr} {bs : Bits} {sym : Nat} (hwf : i.wf = true) (hsym : symbolOf i = some sym)
    (hlt : sym < 288) (hbs : bs = encode fixedLitTable i) :
    (decode (siteOf i) fixedLitTable bs).toOption = some (i, []) := by
  refine decode_of_eq_encode hwf (fun sym' hsym' => ?_) hbs
  obtain rfl : sym = sym' := Option.some.inj (hsym.symm.trans hsym')
  refine ⟨?_, _, _, _, buildFixedLit_eq⟩
  rw [fixedLitTable_lenAt hlt]
  split_ifs <;> decide

/-- A word of the fixed distance code. -/
theorem decode_fixedDist_word {i : Instr} {bs : Bits} {sym : Nat} (hwf : i.wf = true) (hsym : symbolOf i = some sym)
    (hlt : sym < 32) (hbs : bs = encode fixedDistTable i) :
    (decode (siteOf i) fixedDistTable bs).toOption = some (i, []) := by
  refine decode_of_eq_encode hwf (fun sym' hsym' => ?_) hbs
  obtain rfl : sym = sym' := Option.some.inj (hsym.symm.trans hsym')
  exact ⟨by rw [fixedDistTable_lenAt hlt]; decide, _, _, _, buildFixedDist_eq⟩

/-- Settles O48: each word is the encoding of its token, by the layouts and the fixed codewords. -/
theorem decodesSpecWords : Obligations.DecodesSpecWords := by
  unfold Obligations.DecodesSpecWords
  obtain ⟨-, -, hlit8, -, hlit7, -, hdist⟩ := fixedCodewords
  have hliteral : fixedLitTable.codeword 0x61 = codeBits 8 (0x30 + 0x61) := hlit8 0x61 (by decide)
  have heob : fixedLitTable.codeword 256 = codeBits 7 0 := hlit7 0 (by decide)
  have hlength : fixedLitTable.codeword 265 = codeBits 7 9 := hlit7 9 (by decide)
  have hdistance : fixedDistTable.codeword 4 = codeBits 5 4 := hdist 4 (by decide)
  refine ⟨decode_field_word (i := .frameHdr 40 0xF1FA 1 100 2) rfl rfl rfl,
    decode_field_word (i := .chunkOther 0x2004) rfl rfl rfl,
    decode_field_word (i := .zlibHdr 0x78 0x9C) (by decide) rfl rfl,
    decode_field_word (i := .blkHdr true 1) rfl rfl rfl,
    decode_field_word (i := .dynHdr 29 29 15) rfl rfl rfl,
    decode_field_word (i := .clLen 3) rfl rfl rfl,
    decode_fixedLit_word (i := .lit 0x61) rfl rfl (by decide) ?_,
    decode_fixedLit_word (i := .eob) rfl rfl (by decide) ?_,
    decode_fixedLit_word (i := .len265 1) rfl rfl (by decide) ?_,
    decode_fixedDist_word (i := .dist4 1) rfl rfl (by decide) ?_,
    decode_field_word (i := .start true) rfl rfl rfl⟩
  · exact (congrArg (· ++ []) hliteral).symm
  · exact (congrArg (· ++ []) heob).symm
  · exact (congrArg (· ++ [true]) hlength).symm
  · exact (congrArg (· ++ [true]) hdistance).symm

end Sys2Proof.Machine
end

section
/-! SUPPORT. The operations of the BitReader (40_bit_reader.md R152 to R159) on the bits of its range. -/

namespace Sys2Proof.Machine

open Sys2Proof.Safety

theorem getBits_short {n : Nat} {s : State} (h : avail s < n) : getBits n s = .error .truncated := by
  rw [getBits_eq, if_pos h]

theorem getBits_of_le {n : Nat} {s : State} (h : n ≤ avail s) :
    getBits n s = .ok (streamField s s.brPos n, advanceBits n s) := by
  rw [getBits_eq, if_neg (not_lt.2 h), bitsValue_take_bitStream s n h]

theorem consumeBits_short {n : Nat} {s : State} (h : avail s < n) : consumeBits n s = .error .truncated := if_pos h

theorem consumeBits_of_le {n : Nat} {s : State} (h : n ≤ avail s) : consumeBits n s = .ok (advanceBits n s) :=
  if_neg (not_lt.2 h)

/-- A peek is the field of the bits that are left, at most 16. -/
theorem peekBits_eq_streamField (s : State) : peekBits s = streamField s s.brPos (min 16 (avail s)) := by
  have htake : (bitStream s).take 16 = (bitStream s).take (min 16 (avail s)) := by
    rw [← bitStream_length, ← List.take_eq_take_min]
  rw [peekBits, peekWord, Config.peekBits, htake, bitsValue_take_bitStream s _ (min_le_right _ _)]

/-- A field cut off after `m` bits is the field with its later bits 0. -/
theorem streamField_min (s : State) (p n m : Nat) :
    streamField s p (min n m) =
      ∑ k ∈ Finset.range n, if k < m then (streamBit s (p + k)).toNat * 2 ^ k else 0 := by
  have hrange : Finset.range (min n m) = (Finset.range n).filter (· < m) := by
    ext k
    simp
  rw [streamField, hrange, Finset.sum_filter]

/-- The first 8 bits of a record are those of its first byte. -/
theorem take8_recordBits (s : State) (a : Nat) {l : Nat} (h : 1 ≤ l) :
    (recordBits s a l).take 8 = bitsOf 8 (inByte s a).toNat := by
  obtain ⟨n, rfl⟩ := Nat.exists_eq_add_of_le' h
  rw [recordBits, inBytes_succ, bitsOfBytes, List.take_left' (bitsOf_length _ _)]

/-- At a byte boundary a byte of `IN` is read whole (R159). -/
theorem readByte_aligned {s : State} {p : Nat} (hp : s.brPos = 8 * p) (h : 8 ≤ avail s) :
    readByte s = .ok (inByte s (s.brStart + p), advanceBits 8 s) := by
  have hleft : 1 ≤ s.brEnd - s.brStart - p := by simp only [avail, hp] at h; omega
  rw [readByte_eq, if_neg (not_lt.2 h), bitStream_aligned hp, take8_recordBits s _ hleft, bitsValue_bitsOf,
    BitVec.toNat_mod_cancel, BitVec.ofNat_toNat, BitVec.setWidth_eq]

/-- Settles O35: each operation in terms of the fields of the reader's bits. -/
theorem bitReaderOperations : Obligations.BitReaderOperations := by
  unfold Obligations.BitReaderOperations
  intro s
  refine ⟨?getShort, ?get, ?peek, ?consumeShort, ?consume, ?align, ?byte, ?refill⟩
  case getShort => exact fun _ h => getBits_short h
  case get => exact fun n h => ⟨getBits_of_le h, streamField_lt s n h⟩
  case peek => exact (peekBits_eq_streamField s).trans (streamField_min s _ _ _)
  case consumeShort => exact fun _ h => consumeBits_short h
  case consume => exact fun _ h => consumeBits_of_le h
  case align => rfl
  case byte => exact fun _ hp h => readByte_aligned hp h
  case refill => rfl

end Sys2Proof.Machine
end

section
/-! SUPPORT. The canonical code read off its codewords: a decoded symbol is the one whose codeword was read
(41_huffman.md R173), and no bits of one codeword continue to another (R178). -/

namespace Sys2Proof.Machine

open Sys2Proof.Safety

/-! ## Places of `sorted` -/

/-- The symbols of a length stand in increasing order. -/
theorem symbolsOfLength_pairwise (lens : List Nat) (l : Nat) : (symbolsOfLength lens l).Pairwise (· < ·) := by
  have hsub : (symbolsOfLength lens l).Sublist (lens.zipIdx.map Prod.snd) := List.filter_sublist.map _
  rw [List.zipIdx_map_snd] at hsub
  exact List.Pairwise.sublist hsub List.pairwise_lt_range'

theorem mem_sortedSymbols {lens : List Nat} {s : Nat} :
    s ∈ (List.range Config.maxCodeLen).flatMap (fun i => symbolsOfLength lens (i + 1)) ↔
      0 < lens.getD s 0 ∧ lens.getD s 0 ≤ 15 := by
  simp only [List.mem_flatMap, List.mem_range, mem_symbolsOfLength (Nat.succ_pos _), Config.maxCodeLen]
  constructor
  · rintro ⟨i, hi, hs⟩
    omega
  · rintro ⟨h0, h15⟩
    exact ⟨lens.getD s 0 - 1, by omega, by omega⟩

/-- The order of `sorted`: by length, then by symbol (R170). -/
theorem sortedSymbols_pairwise (lens : List Nat) :
    ((List.range Config.maxCodeLen).flatMap fun i => symbolsOfLength lens (i + 1)).Pairwise fun a b =>
      lens.getD a 0 < lens.getD b 0 ∨ lens.getD a 0 = lens.getD b 0 ∧ a < b := by
  rw [List.pairwise_flatMap]
  constructor
  · intro i _
    refine (symbolsOfLength_pairwise lens (i + 1)).imp_of_mem fun ha hb hab => .inr ⟨?_, hab⟩
    rw [mem_symbolsOfLength (Nat.succ_pos _)] at ha hb
    rw [ha, hb]
  · refine List.pairwise_lt_range.imp fun hij a ha b hb => .inl ?_
    rw [mem_symbolsOfLength (Nat.succ_pos _)] at ha hb
    omega

section
variable {T : Table} (h : T.Canonical)
include h

theorem Table.Canonical.mem_sorted {s : Nat} : s ∈ T.sorted ↔ 0 < T.lenAt s := by
  rw [h.sorted, mem_sortedSymbols]
  exact and_iff_left_of_imp fun _ => h.lenAt_le s

theorem Table.Canonical.sorted_pairwise :
    T.sorted.Pairwise fun a b => T.lenAt a < T.lenAt b ∨ T.lenAt a = T.lenAt b ∧ a < b := by
  rw [h.sorted]
  exact sortedSymbols_pairwise T.len

theorem Table.Canonical.sorted_nodup : T.sorted.Nodup :=
  h.sorted_pairwise.imp fun hab heq => by subst heq; omega

theorem Table.Canonical.place_lt {l j : Nat} (h1 : 1 ≤ l) (h15 : l ≤ 15) (hj : j < T.countAt l) :
    T.indexAt l + j < T.sorted.length := by
  obtain ⟨before, after, hsorted, hbefore, -⟩ := h.sorted_split h1 h15
  rw [h.countAt_eq h1 h15, ← symbolsOfLength_length] at hj
  simp only [hsorted, List.length_append]
  omega

/-- The symbol at a place of its length has the codeword of that place (R171). -/
theorem Table.Canonical.symbol_of_place {l j : Nat} (h1 : 1 ≤ l) (h15 : l ≤ 15) (hj : j < T.countAt l) :
    T.lenAt (T.sorted.getD (T.indexAt l + j) 0) = l ∧
      T.codeOf (T.sorted.getD (T.indexAt l + j) 0) = T.firstAt l + j := by
  have hplace := h.place_lt h1 h15 hj
  obtain ⟨before, after, hsorted, hbefore, -⟩ := h.sorted_split h1 h15
  rw [h.countAt_eq h1 h15, ← symbolsOfLength_length] at hj
  have hlen : T.lenAt (T.sorted.getD (T.indexAt l + j) 0) = l := by
    rw [Table.lenAt, ← mem_symbolsOfLength h1, hsorted, ← hbefore, List.getD_append_right _ _ _ _ (by omega),
      Nat.add_sub_cancel_left, List.getD_append _ _ _ _ hj, List.getD_eq_getElem _ _ hj]
    exact List.getElem_mem hj
  refine ⟨hlen, ?_⟩
  rw [Table.codeOf, hlen, List.getD_eq_getElem _ _ hplace, h.sorted_nodup.idxOf_getElem, Nat.add_sub_cancel_left]

end

/-! ## Bits of a codeword -/

@[simp] theorem Table.codeword_length (T : Table) (s : Nat) : (T.codeword s).length = T.lenAt s := codeBits_length _ _

theorem bitsOf_bitsValue (bs : Bits) : bitsOf bs.length (bitsValue bs) = bs := by
  induction bs with
  | nil => rfl
  | cons b bs ih =>
    have hbit : (b.toNat + 2 * bitsValue bs) % 2 = b.toNat ∧ (b.toNat + 2 * bitsValue bs) / 2 = bitsValue bs := by
      have := b.toNat_lt
      omega
    rw [List.length_cons, bitsValue, bitsOf, hbit.1, hbit.2, ih]
    cases b <;> rfl

/-- Bits of equal number and value are equal. -/
theorem bitsValue_inj {as bs : Bits} (hlen : as.length = bs.length) (h : bitsValue as = bitsValue bs) : as = bs := by
  rw [← bitsOf_bitsValue as, ← bitsOf_bitsValue bs, hlen, h]

theorem bitsValue_mod (n : Nat) (bs : Bits) : bitsValue bs % 2 ^ n = bitsValue (bs.take n) := by
  by_cases hn : n ≤ bs.length
  · have hlen := List.length_take_of_le hn
    have hlt := bitsValue_lt (bs.take n)
    conv_lhs => rw [← List.take_append_drop n bs, bitsValue_append]
    rw [hlen] at hlt ⊢
    rw [Nat.add_mul_mod_self_left, Nat.mod_eq_of_lt hlt]
  · rw [List.take_of_length_le (by omega)]
    exact Nat.mod_eq_of_lt ((bitsValue_lt bs).trans_le (Nat.pow_le_pow_right (by decide) (by omega)))

/-- The value of bits read most significant first, with one more bit before them. -/
theorem bitsValue_reverse_cons (b : Bool) (bs : Bits) :
    bitsValue (b :: bs).reverse = b.toNat * 2 ^ bs.length + bitsValue bs.reverse := by
  rw [List.reverse_cons, bitsValue_append, List.length_reverse]
  simp [bitsValue]
  ring

/-! ## What decoding reads -/

/-- Bits after the ones that a found codeword needs are left (R173). -/
theorem decodeFrom_append {T : Table} {left l c sym : Nat} {bs rest : Bits}
    (h : decodeFrom T left l c bs = .ok (sym, rest)) (more : Bits) :
    decodeFrom T left l c (bs ++ more) = .ok (sym, rest ++ more) := by
  induction left generalizing l c bs with
  | zero => cases h
  | succ left ih =>
    cases bs with
    | nil => cases h
    | cons b bs =>
      simp only [List.cons_append, decodeFrom] at h ⊢
      split at h
      · rename_i hmatch
        cases h
        rw [if_pos hmatch]
      · rename_i hmatch
        rw [if_neg hmatch]
        exact ih h

theorem decodeSymbol_append {T : Table} {sym : Nat} {bs rest : Bits} (h : decodeSymbol T bs = .ok (sym, rest))
    (more : Bits) : decodeSymbol T (bs ++ more) = .ok (sym, rest ++ more) := decodeFrom_append h more

/-- A codeword search fails for a missing bit exactly where fewer bits are left than it may read (R174). -/
theorem decodeFrom_error_eq {T : Table} {left l c : Nat} {bs : Bits} {r : Reject}
    (h : decodeFrom T left l c bs = .error r) : r = if bs.length < left then .short else .badSymbol := by
  induction left generalizing l c bs with
  | zero => cases h; rfl
  | succ left ih =>
    cases bs with
    | nil => cases h; rfl
    | cons b bs =>
      simp only [decodeFrom] at h
      split at h
      · cases h
      · simpa using ih h

theorem decodeSymbol_error_eq {T : Table} {bs : Bits} {r : Reject} (h : decodeSymbol T bs = .error r) :
    r = if bs.length < 15 then .short else .badSymbol := decodeFrom_error_eq h

/-- Where the first bits hold no codeword, the search goes on after them. -/
theorem decodeFrom_continue {T : Table} {left l c : Nat} {front : Bits} {r : Reject}
    (h : decodeFrom T front.length l c front = .error r) (bs : Bits) :
    decodeFrom T (front.length + left) l c (front ++ bs) =
      decodeFrom T left (l + front.length) (c * 2 ^ front.length + bitsValue front.reverse) bs := by
  induction front generalizing l c with
  | nil => simp [bitsValue]
  | cons b front ih =>
    simp only [List.length_cons, decodeFrom] at h
    split at h
    · cases h
    · rename_i hmatch
      rw [List.length_cons, Nat.add_right_comm, List.cons_append, decodeFrom, if_neg hmatch, ih h,
        bitsValue_reverse_cons, Nat.add_right_comm l, ← Nat.add_assoc l]
      congr 1
      ring

/-- A symbol found after `c` has the codeword made of `c` and the bits read. -/
theorem Table.Canonical.decodeFrom_ok_code {T : Table} (h : T.Canonical) {left l c sym : Nat} {bs rest : Bits}
    (hd : decodeFrom T left (l + 1) c bs = .ok (sym, rest)) (hl : l + left ≤ 15) :
    ∃ front : Bits, 1 ≤ front.length ∧ bs = front ++ rest ∧ T.lenAt sym = l + front.length ∧
      T.codeOf sym = c * 2 ^ front.length + bitsValue front.reverse := by
  induction left generalizing l c bs with
  | zero => cases hd
  | succ left ih =>
    cases bs with
    | nil => cases hd
    | cons b bs =>
      simp only [decodeFrom] at hd
      split at hd
      · rename_i hmatch
        obtain ⟨-, hfirst, hcount⟩ := hmatch
        cases hd
        obtain ⟨hlen, hcode⟩ := h.symbol_of_place (l := l + 1) (j := 2 * c + b.toNat - T.firstAt (l + 1))
          (by omega) (by omega) (by omega)
        refine ⟨[b], le_rfl, rfl, hlen, ?_⟩
        rw [hcode, Nat.add_sub_of_le hfirst]
        simp [bitsValue, Nat.mul_comm]
      · obtain ⟨front, hfront, rfl, hlen, hcode⟩ := ih hd (by omega)
        refine ⟨b :: front, by simp, rfl, by rw [hlen, List.length_cons]; omega, ?_⟩
        rw [hcode, bitsValue_reverse_cons, List.length_cons]
        ring

/-- What a search among the lengths up to `left` finds is a used symbol, whose codeword stands first. -/
theorem Table.Canonical.decodeFrom_ok_codeword {T : Table} (h : T.Canonical) {left sym : Nat} {bs rest : Bits}
    (hd : decodeFrom T left 1 0 bs = .ok (sym, rest)) (hleft : left ≤ 15) :
    0 < T.lenAt sym ∧ bs = T.codeword sym ++ rest := by
  obtain ⟨front, hfront, rfl, hlen, hcode⟩ := h.decodeFrom_ok_code (l := 0) hd (by omega)
  refine ⟨by omega, ?_⟩
  have hbits := bitsOf_bitsValue front.reverse
  rw [List.length_reverse] at hbits
  rw [Table.codeword, codeBits, hlen, hcode, Nat.zero_add, Nat.zero_mul, Nat.zero_add, hbits, List.reverse_reverse]

theorem decodeAll_codewords {T : Table} (h : T.Canonical) {syms : List Nat} (hsyms : ∀ s ∈ syms, 0 < T.lenAt s)
    (rest : Bits) : decodeAll T syms.length (syms.flatMap T.codeword ++ rest) = .ok (syms, rest) := by
  induction syms with
  | nil => rfl
  | cons s syms ih =>
    obtain ⟨hs, htail⟩ := List.forall_mem_cons.1 hsyms
    rw [List.length_cons, List.flatMap_cons, List.append_assoc, decodeAll, h.decodeSymbol_codeword hs]
    exact congrArg (Except.map fun p => (s :: p.1, p.2)) (ih htail)

/-- Settles O39: a codeword that continued another would decode to both symbols; and each codeword of a sequence decodes
to its own symbol and leaves the rest of the sequence. -/
theorem prefixProperty : Obligations.PrefixProperty := by
  unfold Obligations.PrefixProperty
  intro lengths numRead numTotal T hT
  have h := canonical_of_buildTable hT
  refine ⟨?_, fun syms rest hsyms => decodeAll_codewords h hsyms rest⟩
  rintro a b ha hb hab ⟨more, hmore⟩
  have hboth : decodeSymbol T (T.codeword a ++ more) = .ok (b, []) := by
    simpa [hmore] using h.decodeSymbol_codeword hb []
  rw [h.decodeSymbol_codeword ha] at hboth
  cases hboth
  exact hab rfl

end Sys2Proof.Machine
end

section
/-! SUPPORT. The fast table and the fast path (41_huffman.md R176) against the normative decode. -/

namespace Sys2Proof.Machine

/-- The fast table is read at the symbols whose codewords are the first bits that are left, bits past the end read as
0. -/
theorem peekWord_mod {n l : Nat} (hl : l ≤ n) (hn : n ≤ 15) (bs : Bits) :
    peekWord bs % 2 ^ n % 2 ^ l = bitsValue (bs.take l) := by
  rw [Nat.mod_mod_of_dvd _ (pow_dvd_pow 2 hl), peekWord, bitsValue_mod, List.take_take]
  rw [min_eq_left (by simp only [Config.peekBits]; omega)]

/-- A populated entry is a used symbol's, and the bits left have its codeword's value (R176). -/
theorem Table.Canonical.fastEntry_some {T : Table} (h : T.Canonical) {fastBits s l : Nat} {bs : Bits}
    (hfast : fastBits ≤ 15) (he : fastEntry T fastBits (peekWord bs % 2 ^ fastBits) = some (s, l)) :
    l = T.lenAt s ∧ 0 < T.lenAt s ∧ bitsValue (bs.take (T.lenAt s)) = bitsValue (T.codeword s) := by
  obtain ⟨s', hfind, hs'⟩ := Option.map_eq_some_iff.1 he
  cases hs'
  have hkey := List.find?_some hfind
  simp only [Bool.and_eq_true, decide_eq_true_eq, beq_iff_eq] at hkey
  obtain ⟨hlen, hvalue⟩ := hkey
  exact ⟨rfl, h.mem_sorted.1 (List.mem_of_find?_eq_some hfind), by rw [← hvalue, peekWord_mod hlen hfast]⟩

/-- Where no entry is populated, no codeword of the fast table's lengths stands first (R176). -/
theorem Table.Canonical.fastEntry_none {T : Table} (h : T.Canonical) {fastBits s : Nat} {rest : Bits}
    (hfast : fastBits ≤ 15) (hs : 0 < T.lenAt s)
    (he : fastEntry T fastBits (peekWord (T.codeword s ++ rest) % 2 ^ fastBits) = none) : fastBits < T.lenAt s := by
  have hkey := List.find?_eq_none.1 (Option.map_eq_none_iff.1 he) s (h.mem_sorted.2 hs)
  by_contra hlen
  rw [not_lt] at hlen
  simp [hlen, peekWord_mod hlen hfast] at hkey

/-- An input that ends inside a codeword of which only 0 bits are missing has no codeword of its own. -/
theorem Table.Canonical.decodeSymbol_cut {T : Table} (h : T.Canonical) {s : Nat} {bs : Bits} (hs : 0 < T.lenAt s)
    (hshort : bs.length < T.lenAt s) (hvalue : bitsValue bs = bitsValue (T.codeword s)) :
    decodeSymbol T bs = .error .short := by
  have hfill : bs ++ bitsOf (T.lenAt s - bs.length) 0 = T.codeword s := by
    refine bitsValue_inj (by simp; omega) ?_
    rw [bitsValue_append, bitsValue_bitsOf, Nat.zero_mod, Nat.mul_zero, Nat.add_zero, hvalue]
  cases hd : decodeSymbol T bs with
  | error r =>
    have h15 := h.lenAt_le s
    rw [decodeSymbol_error_eq hd, if_pos (by omega)]
  | ok p =>
    obtain ⟨sym, rest⟩ := p
    have hmore := decodeSymbol_append hd (bitsOf (T.lenAt s - bs.length) 0)
    have hwhole : decodeSymbol T (T.codeword s) = .ok (s, []) := by
      simpa using h.decodeSymbol_codeword hs []
    rw [hfill, hwhole] at hmore
    have hlen := congrArg List.length (Prod.mk.inj (Except.ok.inj hmore)).2
    simp only [List.length_nil, List.length_append, bitsOf_length] at hlen
    omega

/-- Where no codeword of length `n` or less stands first, the search starts after the first `n` bits (R176). -/
theorem Table.Canonical.decodeSymbol_above {T : Table} (h : T.Canonical) {n : Nat} {bs : Bits} (hn : n ≤ 15)
    (hlen : n ≤ bs.length) (hnone : ∀ s rest, 0 < T.lenAt s → bs = T.codeword s ++ rest → n < T.lenAt s) :
    decodeSymbol T bs = decodeFrom T (Config.maxCodeLen - n) (n + 1) (bitsValue (bs.take n).reverse) (bs.drop n) := by
  have htake := List.length_take_of_le hlen
  cases hd : decodeFrom T (bs.take n).length 1 0 (bs.take n) with
  | ok p =>
    obtain ⟨sym, rest⟩ := p
    obtain ⟨hs, hcode⟩ := h.decodeFrom_ok_codeword hd (by omega)
    have hlong := hnone sym (rest ++ bs.drop n) hs (by rw [← List.append_assoc, ← hcode, List.take_append_drop])
    have hle := congrArg List.length hcode
    rw [List.length_append, T.codeword_length] at hle
    omega
  | error r =>
    have hgo := decodeFrom_continue (left := Config.maxCodeLen - n) hd (bs.drop n)
    have hsum : n + (Config.maxCodeLen - n) = Config.maxCodeLen := Nat.add_sub_of_le hn
    rwa [List.take_append_drop, htake, hsum, Nat.zero_mul, Nat.zero_add, Nat.add_comm 1] at hgo

/-- Settles O40: a populated entry is the codeword that stands first, or one that the input cuts off; without one every
codeword up to the threshold is ruled out, and the bit-by-bit search goes on above it. -/
theorem fastPathAgrees : Obligations.FastPathAgrees := by
  unfold Obligations.FastPathAgrees
  intro lengths numRead numTotal T fastBits bs hT hfast
  have h := canonical_of_buildTable hT
  unfold fastDecode
  cases he : fastEntry T fastBits (peekWord bs % 2 ^ fastBits) with
  | some p =>
    obtain ⟨s, l⟩ := p
    obtain ⟨rfl, hs, hvalue⟩ := h.fastEntry_some hfast he
    by_cases hshort : bs.length < T.lenAt s
    · rw [List.take_of_length_le hshort.le] at hvalue
      rw [h.decodeSymbol_cut hs hshort hvalue]
      exact if_pos hshort
    · have hcode : bs.take (T.lenAt s) = T.codeword s :=
        bitsValue_inj (by rw [List.length_take_of_le (not_lt.1 hshort), T.codeword_length]) hvalue
      have hdecode := h.decodeSymbol_codeword hs (bs.drop (T.lenAt s))
      rw [← hcode, List.take_append_drop] at hdecode
      rw [hdecode]
      exact if_neg hshort
  | none =>
    have hnone : ∀ s rest, 0 < T.lenAt s → bs = T.codeword s ++ rest → fastBits < T.lenAt s := by
      rintro s rest hs rfl
      exact h.fastEntry_none hfast hs he
    by_cases hshort : bs.length < fastBits
    · refine (if_pos hshort).trans ?_
      cases hd : decodeSymbol T bs with
      | error r => rw [decodeSymbol_error_eq hd, if_pos (hshort.trans_le hfast)]
      | ok p =>
        obtain ⟨hs, hcode⟩ := h.decodeFrom_ok_codeword hd le_rfl
        have hlong := hnone _ _ hs hcode
        have hle := congrArg List.length hcode
        rw [List.length_append, T.codeword_length] at hle
        omega
    · exact (if_neg hshort).trans (h.decodeSymbol_above hfast (not_lt.1 hshort) hnone).symm

end Sys2Proof.Machine
end

section
/-! SUPPORT. The register file that `prepare` leaves (41_huffman.md R170) and the Kraft sum of its lengths (R172). -/

namespace Sys2Proof.Machine

/-! ## prepare -/

/-- `T.len` as `prepare` writes it: the lengths read, then 0 for the other symbols. -/
def paddedLengths (lengths : List Nat) (numRead numTotal : Nat) : List Nat :=
  lengths.take numRead ++ List.replicate (numTotal - (lengths.take numRead).length) 0

/-- The register file that `prepare` derives from `T.len`. -/
def Table.ofLengths (len : List Nat) : Table :=
  { len := len
    count := 0 :: (List.range Config.maxCodeLen).map fun i => len.count (i + 1)
    first := List.replicate 16 0
    index := runningIndex 0 (0 :: (List.range Config.maxCodeLen).map fun i => len.count (i + 1))
    sorted := (List.range Config.maxCodeLen).flatMap fun i => symbolsOfLength len (i + 1) }

theorem prepareTable_of_le {lengths : List Nat} {numRead numTotal : Nat} (h : numRead ≤ numTotal) :
    prepareTable lengths numRead numTotal =
      if (paddedLengths lengths numRead numTotal).any (16 ≤ ·) then .error .badCodeLengths
      else .ok (Table.ofLengths (paddedLengths lengths numRead numTotal)) :=
  if_neg (not_lt.2 h)

/-- A prepared table is the one its lengths give. -/
theorem eq_ofLengths_of_prepareTable {lengths : List Nat} {numRead numTotal : Nat} {T : Table}
    (h : prepareTable lengths numRead numTotal = .ok T) :
    T = Table.ofLengths (paddedLengths lengths numRead numTotal) := by
  by_cases hread : numRead ≤ numTotal
  · rw [prepareTable_of_le hread] at h
    split at h
    · cases h
    · cases h
      rfl
  · rw [prepareTable, if_pos (not_le.1 hread)] at h
    cases h

theorem paddedLengths_length {lengths : List Nat} {numRead numTotal : Nat} (h : numRead ≤ numTotal) :
    (paddedLengths lengths numRead numTotal).length = numTotal := by
  simp only [paddedLengths, List.length_append, List.length_take, List.length_replicate]
  omega

theorem paddedLengths_getD (lengths : List Nat) (numRead numTotal k : Nat) :
    (paddedLengths lengths numRead numTotal).getD k 0 = if k < numRead then lengths.getD k 0 else 0 := by
  have hpad : ∀ (l : List Nat) (n : Nat), (l ++ List.replicate n 0).getD k 0 = l.getD k 0 := by
    intro l n
    rcases lt_or_ge k l.length with hk | hk
    · exact List.getD_append _ _ _ _ hk
    · rw [List.getD_append_right _ _ _ _ hk, List.getD_eq_default _ _ hk]
      rcases getD_mem_or (List.replicate n 0) (k - l.length) with hz | hz
      · exact List.eq_of_mem_replicate hz
      · exact hz
  rw [paddedLengths, hpad]
  split
  · rename_i hk
    simp [List.getElem?_take_of_lt hk]
  · rename_i hk
    exact List.getD_eq_default _ _ (by rw [List.length_take]; omega)

/-- A length that no codeword may have is one of those read. -/
theorem any_paddedLengths {lengths : List Nat} {numRead numTotal : Nat} :
    (paddedLengths lengths numRead numTotal).any (16 ≤ ·) = true ↔ ∃ k < numRead, 16 ≤ lengths.getD k 0 := by
  simp only [List.any_eq_true, decide_eq_true_eq]
  constructor
  · rintro ⟨v, hv, h16⟩
    obtain ⟨k, hk, rfl⟩ := List.mem_iff_getElem.1 hv
    rw [← List.getD_eq_getElem _ 0 hk, paddedLengths_getD] at h16
    split at h16
    · exact ⟨k, ‹_›, h16⟩
    · omega
  · rintro ⟨k, hk, h16⟩
    have hat := paddedLengths_getD lengths numRead numTotal k
    rw [if_pos hk] at hat
    rcases getD_mem_or (paddedLengths lengths numRead numTotal) k with hmem | hz
    · exact ⟨_, hmem, hat ▸ h16⟩
    · omega

section
variable (len : List Nat)

theorem Table.ofLengths_lenAt (s : Nat) : (Table.ofLengths len).lenAt s = len.getD s 0 := rfl

theorem Table.ofLengths_countAt {l : Nat} (h1 : 1 ≤ l) (h15 : l ≤ 15) :
    (Table.ofLengths len).countAt l = len.count l := by
  obtain ⟨k, rfl⟩ := Nat.exists_eq_add_of_le' h1
  have hk : k < 15 := by omega
  simp [Table.countAt, Table.ofLengths, Config.maxCodeLen, List.getElem?_range hk]

theorem Table.ofLengths_indexAt_succ {l : Nat} (h15 : l + 1 ≤ 15) :
    (Table.ofLengths len).indexAt (l + 1) = (Table.ofLengths len).indexAt l + (Table.ofLengths len).countAt l :=
  runningIndex_getD_succ (by simp only [List.length_cons, List.length_map, List.length_range, Config.maxCodeLen]; omega)

theorem Table.ofLengths_indexAt_one : (Table.ofLengths len).indexAt 1 = 0 :=
  Table.ofLengths_indexAt_succ len (l := 0) (by decide)

/-- The symbols of a length, counted among all of them. -/
theorem count_eq_card {l : Nat} (h1 : 1 ≤ l) :
    len.count l = ((Finset.range len.length).filter fun k => len.getD k 0 = l).card := by
  have hset : (symbolsOfLength len l).toFinset = (Finset.range len.length).filter fun k => len.getD k 0 = l := by
    ext k
    simp only [List.mem_toFinset, mem_symbolsOfLength h1, Finset.mem_filter, Finset.mem_range]
    refine (and_iff_right_of_imp fun hk => ?_).symm
    by_contra hout
    rw [List.getD_eq_default _ _ (not_lt.1 hout)] at hk
    omega
  rw [← hset, List.toFinset_card_of_nodup ((symbolsOfLength_pairwise len l).imp Nat.ne_of_lt), symbolsOfLength_length]

end

end Sys2Proof.Machine

namespace Sys2Proof.Huffman

open Sys2Proof.Machine

/-- Settles O36: the lengths read and padded are refused for one of 16 or more; else the register file is the one they
give. -/
theorem prepareTable : Obligations.PrepareTable := by
  unfold Obligations.PrepareTable
  intro lengths numRead numTotal
  refine ⟨fun hread => if_pos hread, fun hread hbad => ?_, fun hread hgood => ?_⟩
  · rw [prepareTable_of_le hread, if_pos (any_paddedLengths.2 hbad)]
  · have hfit : ¬ (paddedLengths lengths numRead numTotal).any (16 ≤ ·) = true := by
      rw [any_paddedLengths]
      rintro ⟨k, hk, h16⟩
      exact absurd (hgood k hk) (not_lt.2 h16)
    refine ⟨_, (prepareTable_of_le hread).trans (if_neg hfit), ?len, ?count, Table.ofLengths_indexAt_one _, ?index,
      ?used, sortedSymbols_pairwise _⟩
    case len => exact fun k _ => paddedLengths_getD lengths numRead numTotal k
    case count =>
      intro l h1 h15
      rw [Table.ofLengths_countAt _ h1 h15, count_eq_card _ h1, paddedLengths_length hread]
      rfl
    case index => exact fun l _ h14 => Table.ofLengths_indexAt_succ _ (by omega)
    case used =>
      intro k
      refine mem_sortedSymbols.trans ?_
      rw [Table.ofLengths_lenAt, paddedLengths_getD]
      split
      · rename_i hk
        have := hgood k hk
        omega
      · simp

end Sys2Proof.Huffman
end

section
/-! SUPPORT. The order of the canonical codewords (41_huffman.md R171, R177). -/

namespace Sys2Proof.Machine

theorem Table.Canonical.firstAt_one {T : Table} (h : T.Canonical) : T.firstAt 1 = 0 := by
  rw [h.firstAt_succ (l := 0) (by decide), Table.firstAt, Table.countAt, h.first, h.count]
  rfl

/-- Within a length, codewords increase with the symbol (R177). -/
theorem Table.Canonical.codeOf_lt {T : Table} (h : T.Canonical) {a b : Nat} (ha : 0 < T.lenAt a)
    (hlen : T.lenAt a = T.lenAt b) (hab : a < b) : T.codeOf a < T.codeOf b := by
  obtain ⟨i, hi, hcodea, hplacea⟩ := h.codeOf_eq ha
  obtain ⟨j, hj, hcodeb, hplaceb⟩ := h.codeOf_eq (hlen ▸ ha)
  rw [← hlen] at hj hcodeb hplaceb
  rw [hcodea, hcodeb, Nat.add_lt_add_iff_left]
  by_contra hij
  rcases (not_lt.1 hij).eq_or_lt with rfl | hji
  · omega
  · have hb := h.place_lt ha (h.lenAt_le a) hj
    have ha' := h.place_lt ha (h.lenAt_le a) hi
    have horder := List.pairwise_iff_getElem.1 h.sorted_pairwise _ _ hb ha' (Nat.add_lt_add_left hji _)
    rw [← List.getD_eq_getElem _ 0 hb, ← List.getD_eq_getElem _ 0 ha', hplacea, hplaceb] at horder
    omega

/-- A longer codeword sorts after a shorter one and all its continuations (R177). -/
theorem Table.Canonical.codeOf_lt_of_lenAt_lt {T : Table} (h : T.Canonical) {a b : Nat} (ha : 0 < T.lenAt a)
    (hlen : T.lenAt a < T.lenAt b) : (T.codeOf a + 1) * 2 ^ (T.lenAt b - T.lenAt a) ≤ T.codeOf b := by
  obtain ⟨i, hi, hcodea, -⟩ := h.codeOf_eq ha
  obtain ⟨j, -, hcodeb, -⟩ := h.codeOf_eq (ha.trans hlen)
  obtain ⟨n, hn⟩ := Nat.exists_eq_add_of_lt hlen
  have hgap := h.code_gap (l := T.lenAt a) (n := n) (by have := h.lenAt_le b; omega)
  calc (T.codeOf a + 1) * 2 ^ (T.lenAt b - T.lenAt a)
      = (T.codeOf a + 1) * 2 ^ (n + 1) := by rw [hn, Nat.add_assoc, Nat.add_sub_cancel_left]
    _ ≤ (T.firstAt (T.lenAt a) + T.countAt (T.lenAt a)) * 2 ^ (n + 1) := Nat.mul_le_mul_right _ (by omega)
    _ ≤ T.firstAt (T.lenAt b) := by rwa [hn]
    _ ≤ T.codeOf b := by rw [hcodeb]; exact Nat.le_add_right _ _

/-- Settles O37: the recurrence is how `first` is written, `sorted` gives each place its codeword, and the order follows
from that of `sorted` and from the recurrence. -/
theorem canonicalCodes : Obligations.CanonicalCodes := by
  unfold Obligations.CanonicalCodes
  intro lengths numRead numTotal T hT
  have h := canonical_of_buildTable hT
  exact ⟨h.firstAt_one, fun _ _ h14 => h.firstAt_succ (by omega), fun _ _ h1 h15 hj => h.symbol_of_place h1 h15 hj,
    fun _ _ ha hlen hab => h.codeOf_lt ha hlen hab, fun _ _ ha hlen => h.codeOf_lt_of_lenAt_lt ha hlen⟩

end Sys2Proof.Machine
end

section
/-! SUPPORT. Over-subscription as the Kraft sum of the lengths (41_huffman.md R172). -/

namespace Sys2Proof.Machine

/-- The part of the Kraft sum of R172 that the lengths up to `n` give, in units of `2^-15`. -/
def kraftSum (T : Table) (n : Nat) : Nat := ∑ l ∈ Finset.range n, T.countAt (l + 1) * 2 ^ (14 - l)

theorem kraftSum_succ (T : Table) (n : Nat) :
    kraftSum T (n + 1) = kraftSum T n + T.countAt (n + 1) * 2 ^ (14 - n) :=
  Finset.sum_range_succ _ _

theorem kraftSum_mono (T : Table) : Monotone (kraftSum T) :=
  monotone_nat_of_le_succ fun n => by rw [kraftSum_succ]; exact Nat.le_add_right _ _

/-- `finalize`'s table before its check: the prepared one with `first`. -/
def Table.withFirst (T : Table) : Table := { T with first := runningCode 0 T.count }

@[simp] theorem Table.withFirst_countAt (T : Table) (l : Nat) : T.withFirst.countAt l = T.countAt l := rfl

theorem Table.oversubscribed_iff (T : Table) :
    T.oversubscribed = true ↔ ∃ l, 1 ≤ l ∧ l ≤ 15 ∧ 0 < T.countAt l ∧ 2 ^ l < T.firstAt l + T.countAt l := by
  simp only [Table.oversubscribed, List.any_eq_true, List.mem_range, Config.maxCodeLen, Bool.and_eq_true,
    decide_eq_true_eq]
  constructor
  · rintro ⟨k, hk, hcount, hover⟩
    exact ⟨k + 1, by omega, by omega, hcount, hover⟩
  · rintro ⟨l, h1, h15, hcount, hover⟩
    obtain ⟨k, rfl⟩ := Nat.exists_eq_add_of_le' h1
    exact ⟨k, by omega, hcount, hover⟩

section
variable (len : List Nat)

theorem Table.withFirst_firstAt_succ {l : Nat} (h15 : l + 1 ≤ 15) :
    (Table.ofLengths len).withFirst.firstAt (l + 1) =
      2 * ((Table.ofLengths len).withFirst.firstAt l + (Table.ofLengths len).countAt l) :=
  runningCode_getD_succ (by
    simp only [Table.ofLengths, List.length_cons, List.length_map, List.length_range, Config.maxCodeLen]; omega)

/-- The codeword space used up to a length is its part of the Kraft sum. -/
theorem codeSpace_eq_kraftSum {l : Nat} (h14 : l ≤ 14) :
    ((Table.ofLengths len).withFirst.firstAt (l + 1) + (Table.ofLengths len).countAt (l + 1)) * 2 ^ (14 - l) =
      kraftSum (Table.ofLengths len) (l + 1) := by
  induction l with
  | zero =>
    have hfirst : (Table.ofLengths len).withFirst.firstAt 1 = 0 := Table.withFirst_firstAt_succ len (l := 0) (by decide)
    rw [hfirst, kraftSum_succ]
    simp [kraftSum]
  | succ l ih =>
    have hpow : 2 ^ (14 - l) = 2 * 2 ^ (14 - (l + 1)) := by
      rw [← pow_succ', show 14 - (l + 1) + 1 = 14 - l by omega]
    rw [kraftSum_succ, ← ih (by omega), Table.withFirst_firstAt_succ len (by omega), hpow]
    ring

/-- A length's codeword space is exceeded where the Kraft sum up to it exceeds 1. -/
theorem exceeded_iff_kraftSum {l : Nat} (h14 : l ≤ 14) :
    2 ^ (l + 1) < (Table.ofLengths len).withFirst.firstAt (l + 1) + (Table.ofLengths len).countAt (l + 1) ↔
      2 ^ 15 < kraftSum (Table.ofLengths len) (l + 1) := by
  have hpow : 2 ^ 15 = 2 ^ (l + 1) * 2 ^ (14 - l) := by rw [← pow_add]; congr 1; omega
  rw [← codeSpace_eq_kraftSum len h14, hpow]
  exact (Nat.mul_lt_mul_right (by positivity)).symm

/-- The first length up to which the Kraft sum exceeds 1 is used. -/
theorem exists_exceeded {n : Nat} (h15 : n ≤ 15) (hsum : 2 ^ 15 < kraftSum (Table.ofLengths len) n) :
    ∃ l < n, 0 < (Table.ofLengths len).countAt (l + 1) ∧ 2 ^ 15 < kraftSum (Table.ofLengths len) (l + 1) := by
  induction n with
  | zero => simp [kraftSum] at hsum
  | succ n ih =>
    by_cases hbefore : 2 ^ 15 < kraftSum (Table.ofLengths len) n
    · obtain ⟨l, hl, hexceeded⟩ := ih (by omega) hbefore
      exact ⟨l, hl.trans (Nat.lt_succ_self n), hexceeded⟩
    · refine ⟨n, Nat.lt_succ_self n, Nat.pos_of_ne_zero fun hzero => hbefore ?_, hsum⟩
      rwa [kraftSum_succ, hzero, Nat.zero_mul, Nat.add_zero] at hsum

/-- Over-subscription is a Kraft sum above 1 (R172). -/
theorem oversubscribed_iff_kraftSum :
    (Table.ofLengths len).withFirst.oversubscribed = true ↔ 2 ^ 15 < kraftSum (Table.ofLengths len) 15 := by
  rw [Table.oversubscribed_iff]
  constructor
  · rintro ⟨l, h1, h15, -, hover⟩
    obtain ⟨k, rfl⟩ := Nat.exists_eq_add_of_le' h1
    exact ((exceeded_iff_kraftSum len (by omega)).1 hover).trans_le (kraftSum_mono _ h15)
  · intro hsum
    obtain ⟨l, hl, hcount, hover⟩ := exists_exceeded len le_rfl hsum
    exact ⟨l + 1, by omega, by omega, hcount, (exceeded_iff_kraftSum len (by omega)).2 hover⟩

end

theorem finalizeTable_eq (T : Table) :
    finalizeTable T = if T.withFirst.oversubscribed then .error .oversubscribed else .ok T.withFirst := rfl

/-- Settles O38: a length's codeword space is exceeded exactly where the Kraft sum up to it exceeds 1, and that is all
that `finalize` checks. -/
theorem oversubscription : Obligations.Oversubscription := by
  unfold Obligations.Oversubscription
  intro lengths numRead numTotal T F hT hF
  obtain rfl := eq_ofLengths_of_prepareTable hT
  have hkraft := oversubscribed_iff_kraftSum (paddedLengths lengths numRead numTotal)
  subst hF
  refine ⟨(Table.oversubscribed_iff _).symm.trans hkraft, fun hsum => ?_, fun hsum => ?_⟩
  · rw [finalizeTable_eq, if_pos (hkraft.2 hsum)]
  · exact ⟨_, (finalizeTable_eq _).trans (if_neg fun hover => absurd (hkraft.1 hover) (not_lt.2 hsum)), rfl⟩

end Sys2Proof.Machine
end

section
/-! SUPPORT. The failures of decoding (41_huffman.md R173 to R175), and of the step at a symbol's place. -/

namespace Sys2Proof.Machine

open Sys2Proof.Safety

/-- Lengths that are all 0 are accepted (R175). -/
theorem buildTable_zeros {lengths : List Nat} {numRead numTotal : Nat} (hread : numRead ≤ numTotal)
    (hzero : ∀ v ∈ lengths, v = 0) :
    ∃ T, buildTable lengths numRead numTotal = .ok T ∧ ∀ s, T.lenAt s = 0 := by
  have hpad : ∀ v ∈ paddedLengths lengths numRead numTotal, v = 0 := by
    intro v hv
    rcases List.mem_append.1 hv with hv | hv
    · exact hzero v (List.mem_of_mem_take hv)
    · exact List.eq_of_mem_replicate hv
  have hprepare :
      prepareTable lengths numRead numTotal = .ok (Table.ofLengths (paddedLengths lengths numRead numTotal)) := by
    rw [prepareTable_of_le hread, if_neg]
    rw [List.any_eq_true]
    rintro ⟨v, hv, h16⟩
    simp [hpad v hv] at h16
  have hfinalize : (Table.ofLengths (paddedLengths lengths numRead numTotal)).withFirst.oversubscribed ≠ true := by
    rw [ne_eq, Table.oversubscribed_iff]
    rintro ⟨l, h1, h15, hcount, -⟩
    rw [Table.withFirst_countAt, Table.ofLengths_countAt _ h1 h15, List.count_pos_iff] at hcount
    exact absurd (hpad l hcount) (by omega)
  refine ⟨_, by rw [buildTable, hprepare]; exact (finalizeTable_eq _).trans (if_neg hfinalize), fun s => ?_⟩
  exact (getD_mem_or _ s).elim (hpad _) id

/-- Settles O41: the search stops at a match, so later bits are left; it fails by the bits left; and what it finds is a
used symbol, of which an empty table has none. -/
theorem decodeErrors : Obligations.DecodeErrors := by
  unfold Obligations.DecodeErrors
  refine ⟨fun _ _ more _ _ h => decodeSymbol_append h more, fun _ _ _ h => decodeSymbol_error_eq h, ?_⟩
  intro lengths numRead numTotal hread hzero
  obtain ⟨T, hT, hunused⟩ := buildTable_zeros hread hzero
  refine ⟨T, hT, fun bs => ?_⟩
  cases hd : decodeSymbol T bs with
  | error r => rw [decodeSymbol_error_eq hd]
  | ok p =>
    have hused := ((canonical_of_buildTable hT).decodeFrom_ok_codeword hd le_rfl).1
    exact absurd (hunused p.1) hused.ne'

/-! ## The step at a symbol's place -/

/-- The three places at which a symbol is read, each with its own table (42_inflate.md R216, R229). -/
inductive SymbolPlace (s : State) : Site → Table → Prop
  | codeLength (hseq : s.seq = .dynLens) (hleft : s.lensN < s.hlit + s.hdist) :
    SymbolPlace s (.clSym (s.lensN == 0)) s.clTab
  | literal (hseq : s.seq = .symbols) (hphase : s.phase = .head) : SymbolPlace s .litSym s.litTab
  | distance (hseq : s.seq = .symbols) (hphase : s.phase = .tail) : SymbolPlace s .distSym s.distTab

section
variable {s : State} {site : Site} {T : Table} (h : SymbolPlace s site T)
include h

theorem SymbolPlace.nextSite_eq : nextSite s = some site := by
  cases h with
  | codeLength hseq hleft => simp [nextSite, hseq, hleft]
  | literal hseq hphase => simp [nextSite, hseq, hphase]
  | distance hseq hphase => simp [nextSite, hseq, hphase]

theorem SymbolPlace.enterSite_eq : enterSite site s = s := by cases h <;> rfl

theorem SymbolPlace.siteTable_eq : siteTable site s = T := by cases h <;> rfl

theorem SymbolPlace.siteBits_eq : siteBits site s = bitStream s := by cases h <;> rfl

theorem SymbolPlace.shortCause_eq : shortCause site = .truncated := by cases h <;> rfl

/-- Bits that hold no codeword hold no token of the place. -/
theorem SymbolPlace.decode_error {bs : Bits} {r : Reject} (hd : decodeSymbol T bs = .error r) :
    decode site T bs = .error r := by
  cases h with
  | codeLength => simp [decode, decodeClSym, hd]
  | literal => simp [decode, decodeLitSym, hd]
  | distance => simp [decode, decodeDistSym, hd]

theorem SymbolPlace.step_rejected (hhost : s.host = []) {r : Reject} (hd : decode site T (bitStream s) = .error r) :
    step s = rejected site r s := by
  have hstep := Machine.step_rejected (r := r) hhost h.nextSite_eq
    (by rw [h.enterSite_eq, h.siteTable_eq, h.siteBits_eq, hd])
  rwa [h.enterSite_eq] at hstep

/-- A token cut off at a symbol's place is TRUNCATED at CHUNK_START (60_exceptions.md R401, R403). -/
theorem SymbolPlace.failsWith_truncated (hhost : s.host = []) (hd : decode site T (bitStream s) = .error .short) :
    FailsWith .truncated s.chunkStart s (step s) := by
  rw [h.step_rejected hhost hd, rejected, h.shortCause_eq]
  exact failsWith_raise rfl rfl rfl rfl rfl rfl rfl rfl rfl

theorem SymbolPlace.failsWith_badSymbol (hhost : s.host = []) (hd : decode site T (bitStream s) = .error .badSymbol) :
    FailsWith .badSymbol s.chunkStart s (step s) := by
  rw [h.step_rejected hhost hd]
  exact failsWith_raise rfl rfl rfl rfl rfl rfl rfl rfl rfl

/-- Where no codeword stands at the reader's position, the cause tells whether the bits end first (41_huffman.md R174). -/
theorem SymbolPlace.failsWith_noCodeword (hhost : s.host = []) {r : Reject}
    (hd : decodeSymbol T (bitStream s) = .error r) :
    (avail s < 15 → FailsWith .truncated s.chunkStart s (step s)) ∧
      (15 ≤ avail s → FailsWith .badSymbol s.chunkStart s (step s)) := by
  have hr := decodeSymbol_error_eq hd
  rw [bitStream_length] at hr
  constructor
  · intro hshort
    rw [if_pos hshort] at hr
    exact h.failsWith_truncated hhost (h.decode_error (hr ▸ hd))
  · intro hlong
    rw [if_neg (not_lt.2 hlong)] at hr
    exact h.failsWith_badSymbol hhost (h.decode_error (hr ▸ hd))

end

/-- The rows of the length codes read the extra bits that R118 gives each symbol. -/
theorem lengthRows_of_lengthCodes {sym extra base : Nat} (h : (sym, extra, base) ∈ lengthCodes) :
    257 ≤ sym ∧ ∃ mk, lengthRows[sym - 257]? = some (extra, mk) := by
  have hall : ∀ c ∈ lengthCodes, 257 ≤ c.1 ∧ (lengthRows[c.1 - 257]?).map Prod.fst = some c.2.1 := by decide
  obtain ⟨hsym, hrow⟩ := hall _ h
  obtain ⟨⟨_, mk⟩, hrow, rfl⟩ := Option.map_eq_some_iff.1 hrow
  exact ⟨hsym, mk, hrow⟩

/-- The rows of the distance codes read the extra bits that R119 gives each symbol. -/
theorem distanceRows_of_distanceCodes {sym extra base : Nat} (h : (sym, extra, base) ∈ distanceCodes) :
    ∃ mk, distanceRows[sym]? = some (extra, mk) := by
  have hall : ∀ c ∈ distanceCodes, (distanceRows[c.1]?).map Prod.fst = some c.2.1 := by decide
  obtain ⟨⟨_, mk⟩, hrow, rfl⟩ := Option.map_eq_some_iff.1 (hall _ h)
  exact ⟨mk, hrow⟩

section
variable {T : Table} {bs rest : Bits} {sym : Nat} (h : decodeSymbol T bs = .ok (sym, rest))
include h

/-- A code-length symbol whose repeat count is cut off (42_inflate.md R218 to R220). -/
theorem decodeClSym_cut {first : Bool}
    (hcut : sym = 16 ∧ first = false ∧ rest.length < 2 ∨ sym = 17 ∧ rest.length < 3 ∨ sym = 18 ∧ rest.length < 7) :
    decodeClSym T first bs = .error .short := by
  rcases hcut with ⟨rfl, rfl, hrest⟩ | ⟨rfl, hrest⟩ | ⟨rfl, hrest⟩
  · exact (decodeClSym_of_row h rfl rfl).trans (decodeRow_short _ hrest)
  · exact (decodeClSym_of_row h (Bool.and_false _) rfl).trans (decodeRow_short _ hrest)
  · exact (decodeClSym_of_row h (Bool.and_false _) rfl).trans (decodeRow_short _ hrest)

/-- A match length whose extra bits are cut off (42_inflate.md R226). -/
theorem decodeLitSym_cut {extra base : Nat} (hcode : (sym, extra, base) ∈ lengthCodes) (hcut : rest.length < extra) :
    decodeLitSym T bs = .error .short := by
  obtain ⟨hsym, mk, hrow⟩ := lengthRows_of_lengthCodes hcode
  exact (decodeLitSym_of_row h hsym hrow).trans (decodeRow_short mk hcut)

/-- A match distance whose extra bits are cut off (42_inflate.md R226). -/
theorem decodeDistSym_cut {extra base : Nat} (hcode : (sym, extra, base) ∈ distanceCodes)
    (hcut : rest.length < extra) : decodeDistSym T bs = .error .short := by
  obtain ⟨mk, hrow⟩ := distanceRows_of_distanceCodes hcode
  exact (decodeDistSym_of_row h hrow).trans (decodeRow_short mk hcut)

end

/-- Settles O60: at each place the decoder's refusal is the step's failure, and it refuses a missing codeword and cut
extra bits. -/
theorem symbolFailures : Obligations.SymbolFailures := by
  unfold Obligations.SymbolFailures
  intro s T hhost hplace
  rcases hplace with ⟨hseq, hleft, rfl⟩ | ⟨hseq, hphase, rfl⟩ | ⟨hseq, hphase, rfl⟩
  · have h := SymbolPlace.codeLength hseq hleft
    refine ⟨fun r hd => h.failsWith_noCodeword hhost hd, fun sym rest hd => ⟨fun _ hcut => ?_, ?_, ?_⟩⟩
    · refine h.failsWith_truncated hhost (decodeClSym_cut hd (hcut.imp_left ?_))
      rintro ⟨hsym, hlens, hrest⟩
      exact ⟨hsym, beq_false_of_ne hlens.ne', hrest⟩
    · exact fun hsymbols => absurd (hseq.symm.trans hsymbols) (by decide)
    · exact fun hsymbols => absurd (hseq.symm.trans hsymbols) (by decide)
  · have h := SymbolPlace.literal hseq hphase
    refine ⟨fun r hd => h.failsWith_noCodeword hhost hd,
      fun sym rest hd => ⟨?_, fun _ _ extra base hcode hcut => ?_, ?_⟩⟩
    · exact fun hlens => absurd (hseq.symm.trans hlens) (by decide)
    · exact h.failsWith_truncated hhost (decodeLitSym_cut hd hcode hcut)
    · exact fun _ htail => absurd (hphase.symm.trans htail) (by decide)
  · have h := SymbolPlace.distance hseq hphase
    refine ⟨fun r hd => h.failsWith_noCodeword hhost hd,
      fun sym rest hd => ⟨?_, ?_, fun _ _ extra base hcode hcut => ?_⟩⟩
    · exact fun hlens => absurd (hseq.symm.trans hlens) (by decide)
    · exact fun _ hhead => absurd (hphase.symm.trans hhead) (by decide)
    · exact h.failsWith_truncated hhost (decodeDistSym_cut hd hcode hcut)

end Sys2Proof.Machine
end

section
/-! Runs of output (42_inflate.md R206, R207, R210): what a run of `put` leaves where, and the stored copy as such a
run; O33 and O25. -/

namespace Sys2Proof.Machine

open Sys2Proof.Safety

/-- A cause raised in a state is its failure at the address of the cause's anchor (60_exceptions.md R403). -/
theorem failsWith_raise_self (c : Cause) (s : State) : FailsWith c (errAddress c s) s (raise c s) :=
  failsWith_raise rfl rfl rfl rfl rfl rfl rfl rfl rfl

/-! ## One byte -/

theorem tileByte_put_same (b : Byte) (s : State) : tileByte (put b s) s.outPos = b := by
  simp [tileByte, Memory.find_write_none]

theorem put_find_other {s : State} {a : Nat} (h : a ≠ s.outPos) (b : Byte) :
    (put b s).tile.find a = s.tile.find a :=
  Memory.find_write_other h

theorem tileByte_put_other {s : State} {a : Nat} (h : a ≠ s.outPos) (b : Byte) :
    tileByte (put b s) a = tileByte s a := by
  simp [tileByte, Memory.find_write_other h]

/-! ## Runs -/

theorem putAll_frame (bytes : List Byte) (s : State) :
    putAll bytes s = { s with
      tile := (putAll bytes s).tile, adlerA := (putAll bytes s).adlerA, adlerB := (putAll bytes s).adlerB
      outPos := s.outPos + bytes.length } := by
  induction bytes generalizing s with
  | nil => rfl
  | cons b bytes ih =>
    calc putAll (b :: bytes) s
        = { put b s with
            tile := (putAll bytes (put b s)).tile, adlerA := (putAll bytes (put b s)).adlerA
            adlerB := (putAll bytes (put b s)).adlerB, outPos := s.outPos + 1 + bytes.length } := ih (put b s)
      _ = _ := by rw [List.length_cons, Nat.add_right_comm]; rfl

@[simp] theorem putAll_brPos (bytes : List Byte) (s : State) : (putAll bytes s).brPos = s.brPos := by
  rw [putAll_frame]

@[simp] theorem putAll_bfinal (bytes : List Byte) (s : State) : (putAll bytes s).bfinal = s.bfinal := by
  rw [putAll_frame]

/-- A run leaves the bytes below and above it alone. -/
theorem putAll_find_other {bytes : List Byte} {s : State} {a : Nat}
    (h : a < s.outPos ∨ s.outPos + bytes.length ≤ a) : (putAll bytes s).tile.find a = s.tile.find a := by
  induction bytes generalizing s with
  | nil => rfl
  | cons b bytes ih =>
    rw [List.length_cons] at h
    exact (ih (by rw [put_outPos]; omega)).trans (put_find_other (by omega) b)

/-- Byte `k` of a run stands `k` places after the output position. -/
theorem putAll_find {bytes : List Byte} {s : State} {k : Nat} {b : Byte} (h : bytes[k]? = some b) :
    (putAll bytes s).tile.find (s.outPos + k) = some b := by
  induction bytes generalizing s k with
  | nil => cases h
  | cons c bytes ih =>
    cases k with
    | zero =>
      obtain rfl : c = b := Option.some.inj h
      exact (putAll_find_other (s := put c s) (.inl (Nat.lt_succ_self s.outPos))).trans (Memory.find_write_none _ _ _)
    | succ k =>
      have hrest : (putAll bytes (put c s)).tile.find (s.outPos + 1 + k) = some b := ih h
      rwa [Nat.add_right_comm] at hrest

/-- Settles O33, by induction on the bytes. -/
theorem outputRun : Obligations.OutputRun := by
  unfold Obligations.OutputRun
  intro bytes s
  refine ⟨putAll_frame bytes s, fun k b hb => ?_, fun a ha => putAll_find_other ha⟩
  simp [tileByte, putAll_find hb]

/-! ## The stored copy -/

/-- Output and reader do not meet. -/
theorem putAll_advanceBits (n : Nat) (bytes : List Byte) (s : State) :
    putAll bytes (advanceBits n s) = advanceBits n (putAll bytes s) := by
  induction bytes generalizing s with
  | nil => rfl
  | cons b bytes ih => exact ih (put b s)

/-- The bytes of a stored copy are those of `IN` at the reader's position. -/
theorem storedBytes_eq (n : Nat) (s : State) : storedBytes n s = inBytes s (s.brStart + s.brPos / 8) n := rfl

theorem storedBytes_succ (n : Nat) (s : State) :
    storedBytes (n + 1) s =
      inByte s (s.brStart + s.brPos / 8) ::
        storedBytes n (put (inByte s (s.brStart + s.brPos / 8)) (advanceBits 8 s)) := by
  have hpos : s.brStart + (s.brPos + 8) / 8 = s.brStart + s.brPos / 8 + 1 := by omega
  rw [storedBytes_eq, inBytes_succ, ← hpos]
  rfl

/-- A stored copy of bytes that are there puts them, one by one (R210). -/
theorem storedCopy_eq_putAll {n : Nat} {s : State} (haligned : s.brPos % 8 = 0) (h : 8 * n ≤ avail s) :
    storedCopy n s = .ok (advanceBits (8 * n) (putAll (storedBytes n s) s)) := by
  induction n generalizing s with
  | zero => rfl
  | succ n ih =>
    have hread := readByte_aligned (s := s) (p := s.brPos / 8) (by omega) (by omega)
    have hrest := ih (s := put (inByte s (s.brStart + s.brPos / 8)) (advanceBits 8 s))
      (show (s.brPos + 8) % 8 = 0 by omega) (by rw [avail_put, avail_advanceBits]; omega)
    simp only [storedCopy, hread, hrest, storedBytes_succ, putAll]
    rw [show put _ (advanceBits 8 s) = advanceBits 8 (put _ s) from rfl, putAll_advanceBits,
      advanceBits_advanceBits, Nat.mul_succ, Nat.add_comm 8]

/-- Settles O25: the checks in their order, and the copy as a run of output. -/
theorem storedBlock : Obligations.StoredBlock := by
  unfold Obligations.StoredBlock
  intro s len nlen
  refine ⟨fun hlen hroom hbits haligned => ?copy, fun hlen => ?mismatch, fun hlen hroom => ?overflow,
    fun hlen hroom hbits => ?truncated⟩
  case copy =>
    have hexec : exec (.storedHdr len nlen) s =
        .next (endBlock (advanceBits (8 * len.toNat) (putAll (storedBytes len.toNat s) s))) := by
      simp [exec, execStoredHdr, hlen, not_lt.2 hroom, not_lt.2 hbits, storedCopy_eq_putAll haligned hbits]
    rw [hexec, ← putAll_brPos (storedBytes len.toNat s) s, ← putAll_bfinal (storedBytes len.toNat s) s]
    rfl
  case mismatch =>
    have hexec : exec (.storedHdr len nlen) s = raise .storedLenMismatch s := if_pos hlen
    exact hexec ▸ failsWith_raise_self .storedLenMismatch s
  case overflow =>
    have hexec : exec (.storedHdr len nlen) s = raise .outputOverflow s := by
      simp [exec, execStoredHdr, hlen, hroom]
    exact hexec ▸ failsWith_raise_self .outputOverflow s
  case truncated =>
    have hexec : exec (.storedHdr len nlen) s = raise .truncated s := by
      simp [exec, execStoredHdr, hlen, not_lt.2 hroom, hbits]
    exact hexec ▸ failsWith_raise_self .truncated s

end Sys2Proof.Machine
end

section
/-! The literal/length and distance symbols (42_inflate.md R222 to R289): O28, O29, O31, O30 and O32. -/

namespace Sys2Proof.Machine

open Sys2Proof.Safety

/-! ## Literals and lengths -/

/-- Settles O28: a literal is one byte of output, where there is room for it. -/
theorem literalAndEob : Obligations.LiteralAndEob := by
  unfold Obligations.LiteralAndEob
  intro s
  refine ⟨fun b hroom => ?room, fun b hfull => ?full, rfl⟩
  case room =>
    have hexec : exec (.lit b) s = .next (put b s) := if_neg (not_le.2 hroom)
    exact ⟨put b s, hexec, rfl, tileByte_put_same b s, fun a ha => put_find_other ha b⟩
  case full =>
    have hexec : exec (.lit b) s = raise .outputOverflow s := if_pos hfull
    exact hexec ▸ failsWith_raise_self .outputOverflow s

/-- The meaning of a length symbol, its length by the table of R118, and the bounds of that length. -/
theorem exec_of_lengthOf {i : Instr} {len : Nat} (h : lengthOf i = some len) :
    (∃ sym extra, (∀ s, exec i s = beginMatch sym extra s) ∧ lengthOperand sym extra = len) ∧
      3 ≤ len ∧ len ≤ 258 := by
  cases i with
  | len257 | len258 | len259 | len260 | len261 | len262 | len263 | len264 | len265 | len266 | len267 | len268 | len269
  | len270 | len271 | len272 | len273 | len274 | len275 | len276 | len277 | len278 | len279 | len280 | len281 | len282
  | len283 | len284 | len285 =>
    cases h
    exact ⟨⟨_, _, fun _ => rfl, rfl⟩, by omega, by omega⟩
  | _ => cases h

/-- Settles O29: each symbol's meaning is a match of its length. -/
theorem lengthSymbols : Obligations.LengthSymbols := by
  unfold Obligations.LengthSymbols
  intro i len s h
  obtain ⟨⟨sym, extra, hexec, rfl⟩, hlen⟩ := exec_of_lengthOf h
  exact ⟨hexec s, hlen⟩

/-! ## Distances -/

/-- The meaning of a distance symbol, its distance by the table of R119, and the bounds of that distance. -/
theorem exec_of_distanceOf {i : Instr} {d : Nat} (h : distanceOf i = some d) :
    (∃ sym extra, (∀ s, exec i s = finishMatch sym extra s) ∧ distanceOperand sym extra = d) ∧
      1 ≤ d ∧ d ≤ 32768 := by
  cases i with
  | dist0 | dist1 | dist2 | dist3 | dist4 | dist5 | dist6 | dist7 | dist8 | dist9 | dist10 | dist11 | dist12 | dist13
  | dist14 | dist15 | dist16 | dist17 | dist18 | dist19 | dist20 | dist21 | dist22 | dist23 | dist24 | dist25 | dist26
  | dist27 | dist28 | dist29 =>
    cases h
    exact ⟨⟨_, _, fun _ => rfl, rfl⟩, by omega, by omega⟩
  | _ => cases h

/-- Settles O31: the first two of the three things that a match can do. -/
theorem matchChecks : Obligations.MatchChecks := by
  unfold Obligations.MatchChecks
  intro i d s h
  obtain ⟨⟨sym, extra, hexec, rfl⟩, -⟩ := exec_of_distanceOf h
  rw [hexec s]
  rcases finishMatch_cases sym extra s with ⟨hfar, he⟩ | ⟨hnear, hlong, he⟩ | ⟨hnear, hfits, -⟩
  · exact ⟨fun _ => he ▸ failsWith_raise_self .distanceTooFar s, fun hnear => absurd hfar (not_lt.2 hnear)⟩
  · exact ⟨fun hfar => absurd hfar (not_lt.2 hnear), fun _ _ => he ▸ failsWith_raise_self .outputOverflow s⟩
  · exact ⟨fun hfar => absurd hfar (not_lt.2 hnear), fun _ hlong => absurd hlong (not_lt.2 hfits)⟩

/-- After a match's first byte is written, byte `k` of what is left is byte `k + 1` of the match: the byte just written
is read again only where a period ends. -/
theorem tileByte_put_period {s : State} {dist : Nat} (hpos : 0 < dist) (hdist : dist ≤ s.outPos) (k : Nat) :
    tileByte (put (tileByte s (s.outPos - dist)) s) (s.outPos + 1 - dist + k % dist) =
      tileByte s (s.outPos - dist + (k + 1) % dist) := by
  have hk : k % dist < dist := Nat.mod_lt k hpos
  by_cases hend : k % dist + 1 = dist
  · have hwritten : s.outPos + 1 - dist + k % dist = s.outPos := by omega
    have hfirst : (k + 1) % dist = 0 := by rw [← Nat.mod_add_mod, hend, Nat.mod_self]
    rw [hwritten, hfirst, tileByte_put_same, Nat.add_zero]
  · have hnext : (k + 1) % dist = k % dist + 1 := by
      rw [← Nat.mod_add_mod, Nat.mod_eq_of_lt (by omega)]
    rw [tileByte_put_other (by omega), hnext, show s.outPos + 1 - dist + k % dist =
      s.outPos - dist + (k % dist + 1) by omega]

theorem matchBytes_succ {s : State} {dist : Nat} (hpos : 0 < dist) (hdist : dist ≤ s.outPos) (n : Nat) :
    matchBytes dist (n + 1) s =
      tileByte s (s.outPos - dist) :: matchBytes dist n (put (tileByte s (s.outPos - dist)) s) := by
  simp only [matchBytes, List.range_succ_eq_map, List.map_cons, List.map_map, Nat.zero_mod, Nat.add_zero,
    Function.comp_def, put_outPos, tileByte_put_period hpos hdist]

/-- A match copy, overlapping or not, puts the last `dist` bytes of the output over and over (R228). -/
theorem matchCopy_eq_putAll {dist : Nat} (hpos : 0 < dist) {n : Nat} {s : State} (hdist : dist ≤ s.outPos) :
    matchCopy dist n s = putAll (matchBytes dist n s) s := by
  induction n generalizing s with
  | zero => rfl
  | succ n ih =>
    rw [matchBytes_succ hpos hdist]
    exact ih (Nat.le_succ_of_le hdist)

/-- Settles O30: where the checks pass, the copy as a run of output. -/
theorem matchCopies : Obligations.MatchCopies := by
  unfold Obligations.MatchCopies
  intro i d s h
  obtain ⟨⟨sym, extra, hexec, rfl⟩, hbounds⟩ := exec_of_distanceOf h
  refine ⟨hbounds, fun hnear hfits => ?_⟩
  rw [hexec s, ← matchCopy_eq_putAll hbounds.1 hnear]
  rcases finishMatch_cases sym extra s with ⟨hfar, -⟩ | ⟨-, hlong, -⟩ | ⟨-, -, he⟩
  · exact absurd hfar (not_lt.2 hnear)
  · exact absurd hlong (not_lt.2 hfits)
  · exact he

/-! ## Invalid symbols -/

/-- Settles O32: the meanings only raise, the decoder stops at the codeword, and the fixed codes hold the symbols. -/
theorem invalidSymbols : Obligations.InvalidSymbols := by
  unfold Obligations.InvalidSymbols
  obtain ⟨-, -, -, -, -, hlit, hdist⟩ := fixedCodewords
  refine ⟨fun _ s => failsWith_raise_self .badLengthSymbol s, fun _ s => failsWith_raise_self .badDistanceSymbol s,
    fun T bs rest sym hd => ⟨fun hsym => ?_, fun hsym => ?_⟩,
    hlit 6 (by decide), hlit 7 (by decide), hdist 30 (by decide), hdist 31 (by decide)⟩
  · exact decodeLitSym_of_invalid hd (by omega)
  · exact decodeDistSym_of_invalid hd (by omega)

end Sys2Proof.Machine
end

section
/-! Blocks and code lengths (42_inflate.md R200 to R204, R213 to R221): O24, O26 and O27. -/

namespace Sys2Proof.Machine

open Sys2Proof.Safety

/-- Settles O24: what each block token writes is its meaning, and the reserved type raises its cause. -/
theorem blockTokens : Obligations.BlockTokens := by
  unfold Obligations.BlockTokens
  intro s
  exact ⟨fun _ _ => rfl, rfl, rfl, rfl, failsWith_raise_self .badBlockType s, fun _ _ _ => rfl, fun _ => rfl⟩

/-! ## Code lengths -/

theorem exec_of_codeLengthOf {i : Instr} {v : Nat} (h : codeLengthOf i = some v) (s : State) :
    exec i s = putLength v s := by
  cases i with
  | clLit0 | clLit1 | clLit2 | clLit3 | clLit4 | clLit5 | clLit6 | clLit7 | clLit8 | clLit9 | clLit10 | clLit11
  | clLit12 | clLit13 | clLit14 | clLit15 => cases h; rfl
  | _ => cases h

/-- The first symbol has no length to repeat, wherever the reader stands (R218). -/
theorem failsWith_clRep16_first {s : State} (h : s.lensN = 0) (e : BitVec 2) (pos : Nat) :
    FailsWith .badRepeat s.chunkStart s (exec (.clRep16 e) { s with brPos := pos }) := by
  have hexec : exec (.clRep16 e) { s with brPos := pos } = raise .badRepeat { s with brPos := pos } := if_pos h
  rw [hexec]
  exact failsWith_raise rfl rfl rfl rfl rfl rfl rfl rfl rfl

theorem exec_clRep16_repeat {s : State} (h : 0 < s.lensN) (e : BitVec 2) :
    exec (.clRep16 e) s = putRun (s.lens.getD (s.lensN - 1) 0) (3 + e.toNat) s := if_neg h.ne'

/-- A run within the list changes exactly its own entries. -/
theorem getD_setRun (v : Nat) {r i : Nat} {l : List Nat} (h : i + r ≤ l.length) (n : Nat) :
    (setRun v r i l).getD n 0 = if i ≤ n ∧ n < i + r then v else l.getD n 0 := by
  induction r generalizing i l with
  | zero => rw [if_neg (by omega)]; rfl
  | succ r ih =>
    rw [setRun, ih (by rw [List.length_set]; omega)]
    by_cases hn : i = n
    · subst hn
      rw [if_neg (by omega), if_pos (by omega), List.getD_eq_getElem?_getD, List.getElem?_set_self (by omega),
        Option.getD_some]
    · have hrange : i + 1 ≤ n ∧ n < i + 1 + r ↔ i ≤ n ∧ n < i + (r + 1) := by omega
      simp only [hrange, List.getD_eq_getElem?_getD, List.getElem?_set_ne hn]

/-- Settles O26: a literal is one length, a run is `putRun`, and the first symbol can repeat nothing. -/
theorem codeLengthSymbols : Obligations.CodeLengthSymbols := by
  unfold Obligations.CodeLengthSymbols
  intro s
  refine ⟨fun i v h => exec_of_codeLengthOf h s, fun i v r hrun => ?run,
    fun e hfirst => failsWith_clRep16_first hfirst e s.brPos⟩
  have hexec : exec i s = putRun v r s := by
    rcases hrun with ⟨e, rfl, rfl, rfl, hprevious⟩ | ⟨e, rfl, rfl, rfl⟩ | ⟨e, rfl, rfl, rfl⟩
    · exact exec_clRep16_repeat hprevious e
    · rfl
    · rfl
  rw [hexec]
  rcases putRun_cases v r s with ⟨hover, he⟩ | ⟨hfits, he⟩
  · exact ⟨fun hfits => absurd hover (not_lt.2 hfits), fun _ => he ▸ failsWith_raise_self .badRepeat s⟩
  · exact ⟨fun _ hlens => ⟨_, he, rfl, setRun_length _ _ _ _, getD_setRun v (hfits.trans hlens)⟩,
      fun hover => absurd hover (not_lt.2 hfits)⟩

/-! ## Table builds -/

theorem step_fixedSetup {s : State} (hhost : s.host = []) (hseq : s.seq = .fixedSetup) : step s = seqFixedSetup s := by
  rw [step_sequence hhost (by simp [nextSite, hseq]), sequence, hseq]

theorem step_dynCl_end {s : State} (hhost : s.host = []) (hseq : s.seq = .dynCl) (hend : s.hclen ≤ s.clI) :
    step s = seqClTable s := by
  rw [step_sequence hhost (by simp [nextSite, hseq, hend]), sequence, hseq]

theorem step_dynLens_end {s : State} (hhost : s.host = []) (hseq : s.seq = .dynLens)
    (hend : s.hlit + s.hdist ≤ s.lensN) : step s = seqBlockTables s := by
  rw [step_sequence hhost (by simp [nextSite, hseq, hend]), sequence, hseq]

/-- Settles O27: in each state the step is the build, and a build that fails raises its cause. -/
theorem tableBuilds : Obligations.TableBuilds := by
  unfold Obligations.TableBuilds
  intro s hhost
  refine ⟨fun hseq => ?fixed, fun hseq hend => ?codeLengths, fun hseq hend => ?block⟩
  case fixed =>
    refine ⟨fixedLitTable, fixedDistTable, buildFixedLit_eq, buildFixedDist_eq, ?_⟩
    rw [step_fixedSetup hhost hseq, seqFixedSetup, buildFixedLit_eq, buildFixedDist_eq]
    rfl
  case codeLengths =>
    rw [step_dynCl_end hhost hseq hend]
    refine ⟨fun T hT => ?_, fun c hc => ?_⟩
    · simp only [seqClTable, Config.clSyms, hT, orRaise_ok]
    · simp only [seqClTable, Config.clSyms, hc, orRaise_error, failsWith_raise_self]
  case block =>
    rw [step_dynLens_end hhost hseq hend]
    refine ⟨fun lit dist hlit hdist => ?_, fun c hlit => ?_, fun lit c hlit hdist => ?_⟩
    · simp only [seqBlockTables, buildBlockTables, Config.litLenSyms, Config.distSyms, hlit, hdist, orRaise_ok]
    · simp only [seqBlockTables, buildBlockTables, Config.litLenSyms, hlit, orRaise_error, failsWith_raise_self]
    · simp only [seqBlockTables, buildBlockTables, Config.litLenSyms, Config.distSyms, hlit, hdist, orRaise_error,
        failsWith_raise_self]

end Sys2Proof.Machine
end

section
/-! The step at a symbol's place (42_inflate.md R216 to R220, R222 to R226, R229): O59. -/

namespace Sys2Proof.Machine

open Sys2Proof.Safety

/-! ## The rows of the alphabets -/

/-- The row of a literal code length. -/
theorem clRows_literal {sym : Nat} (h : sym ≤ 15) :
    ∃ i, clRows[sym]? = some (0, fun _ => i) ∧ codeLengthOf i = some sym := by
  interval_cases sym <;> exact ⟨_, rfl, rfl⟩

/-- The row of a length symbol makes, from extra bits of its width, the token of the length that R118 gives. -/
theorem lengthRows_token {sym extra base v : Nat} (h : (sym, extra, base) ∈ lengthCodes) (hv : v < 2 ^ extra) :
    ∃ mk, lengthRows[sym - 257]? = some (extra, mk) ∧ symbolOf (mk v) = some sym ∧
      lengthOf (mk v) = some (base + v) := by
  fin_cases h
  all_goals
    refine ⟨_, rfl, rfl, ?_⟩
    simp only [lengthOf, BitVec.toNat_ofNat, Option.some.injEq]
    omega

/-- The row of a distance symbol makes, from extra bits of its width, the token of the distance that R119 gives. -/
theorem distanceRows_token {sym extra base v : Nat} (h : (sym, extra, base) ∈ distanceCodes) (hv : v < 2 ^ extra) :
    ∃ mk, distanceRows[sym]? = some (extra, mk) ∧ symbolOf (mk v) = some sym ∧
      distanceOf (mk v) = some (base + v) := by
  fin_cases h
  all_goals
    refine ⟨_, rfl, rfl, ?_⟩
    simp only [distanceOf, BitVec.toNat_ofNat, Option.some.injEq]
    omega

/-! ## Extra bits -/

/-- The extra bits after a codeword are a field of the reader's bits. -/
theorem streamField_rest_lt {s : State} {T : Table} {sym extra : Nat} {rest : Bits}
    (hd : decodeSymbol T (bitStream s) = .ok (sym, rest)) (hextra : extra ≤ rest.length) :
    streamField s (s.brPos + (avail s - rest.length)) extra < 2 ^ extra :=
  streamField_lt (advanceBits (avail s - rest.length) s) extra
    (by have hlen := (decodeSymbol_bitStream hd).1; rw [avail_advanceBits]; omega)

/-- A row's extra bits, read after a codeword. -/
theorem decodeRow_rest {s : State} {T : Table} {sym extra : Nat} {rest : Bits}
    (hd : decodeSymbol T (bitStream s) = .ok (sym, rest)) (mk : Nat → Instr) (hextra : extra ≤ rest.length) :
    decodeRow (extra, mk) rest = .ok (mk (streamField s (s.brPos + (avail s - rest.length)) extra),
      bitStream (advanceBits (avail s - rest.length + extra) s)) := by
  obtain ⟨hlen, hrest⟩ := decodeSymbol_bitStream hd
  have hrow := decodeRow_bitStream (s := advanceBits (avail s - rest.length) s) (n := extra) mk
    (by rw [avail_advanceBits]; omega)
  rw [← hrest, advanceBits_advanceBits] at hrow
  exact hrow

/-! ## The step -/

section
variable {s : State} {site : Site} {T : Table} {sym : Nat} {rest : Bits} (h : SymbolPlace s site T)
  (hhost : s.host = []) (hd : decodeSymbol T (bitStream s) = .ok (sym, rest))
include h hhost hd

/-- Where the place's decoder goes on after the codeword with a row of its alphabet, the step is the row's token, past
the codeword and the extra bits. -/
theorem SymbolPlace.step_row {extra : Nat} {mk : Nat → Instr}
    (hrow : decode site T (bitStream s) = decodeRow (extra, mk) rest) (hextra : extra ≤ rest.length) :
    step s = exec (mk (streamField s (s.brPos + (avail s - rest.length)) extra))
      { s with brPos := s.brPos + (avail s - rest.length) + extra } := by
  have hlen := (decodeSymbol_bitStream hd).1
  have hmove : moveCursor site (avail s - rest.length + extra) s =
      { s with brPos := s.brPos + (avail s - rest.length) + extra } := by
    rw [Nat.add_assoc]
    cases h <;> rfl
  rw [← hmove]
  exact step_stream hhost h.nextSite_eq h.enterSite_eq h.siteBits_eq (by omega)
    (by rw [h.siteTable_eq, hrow, decodeRow_rest hd mk hextra])

/-- Where the place's decoder stops at the codeword, the step is the token, past the codeword. -/
theorem SymbolPlace.step_codeword {i : Instr} (hi : decode site T (bitStream s) = .ok (i, rest)) :
    step s = exec i { s with brPos := s.brPos + (avail s - rest.length) } :=
  h.step_row hhost hd (extra := 0) (mk := fun _ => i) hi (Nat.zero_le _)

end

/-- Settles O59: at each place the symbol's row of the alphabet is its token, and the row's extra bits follow the
codeword. -/
theorem symbolPlaces : Obligations.SymbolPlaces := by
  unfold Obligations.SymbolPlaces
  intro s sym p rest hhost hp
  subst hp
  refine ⟨fun hseq hleft hd => ?codeLength, fun hseq hphase hd => ?literal, fun hseq hphase hd => ?distance⟩
  case codeLength =>
    have h := SymbolPlace.codeLength hseq hleft
    have hother : sym ≠ 16 → (s.lensN == 0 && sym == 16) = false := fun hne => by simp [hne]
    refine ⟨fun hsym => ?_, fun hsym hfirst => ?_, fun hsym hprevious => ?_, fun hsym => ?_, fun hsym => ?_⟩
    · obtain ⟨i, hrow, hi⟩ := clRows_literal hsym
      exact ⟨i, hi, h.step_row hhost hd (decodeClSym_of_row hd (hother (by omega)) hrow) (Nat.zero_le _)⟩
    · have hrep : decode (.clSym (s.lensN == 0)) s.clTab (bitStream s) = .ok (.clRep16 0, rest) := by
        simp [decode, decodeClSym, hd, hsym, hfirst]
      rw [h.step_codeword hhost hd hrep]
      exact failsWith_clRep16_first hfirst 0 _
    · subst hsym
      exact h.step_row hhost hd (decodeClSym_of_row hd (by simp [hprevious.ne']) rfl)
    · subst hsym
      exact h.step_row hhost hd (decodeClSym_of_row hd (hother (by decide)) rfl)
    · subst hsym
      exact h.step_row hhost hd (decodeClSym_of_row hd (hother (by decide)) rfl)
  case literal =>
    have h := SymbolPlace.literal hseq hphase
    refine ⟨fun hsym => ?_, fun hsym => ?_, fun extra base hcode hextra => ?_, fun hsym => ?_⟩
    · exact h.step_codeword hhost hd (decodeLitSym_of_lit hd hsym)
    · exact h.step_codeword hhost hd (decodeLitSym_of_eob hd hsym)
    · obtain ⟨mk, hrow, hsymbol, hlength⟩ := lengthRows_token hcode (streamField_rest_lt hd hextra)
      have h257 := (lengthRows_of_lengthCodes hcode).1
      exact ⟨_, hsymbol, hlength, h.step_row hhost hd (decodeLitSym_of_row hd h257 hrow) hextra⟩
    · exact h.step_codeword hhost hd (decodeLitSym_of_invalid hd (by omega))
  case distance =>
    have h := SymbolPlace.distance hseq hphase
    refine ⟨fun extra base hcode hextra => ?_, fun hsym => ?_⟩
    · obtain ⟨mk, hrow, hsymbol, hdistance⟩ := distanceRows_token hcode (streamField_rest_lt hd hextra)
      exact ⟨_, hsymbol, hdistance, h.step_row hhost hd (decodeDistSym_of_row hd hrow) hextra⟩
    · exact h.step_codeword hhost hd (decodeDistSym_of_invalid hd (by omega))

end Sys2Proof.Machine
end

section
/-! The zlib envelope (43_zlib_adler.md): the header test at a stream's start, the envelope's tokens, and the closed
forms of the output's checksum; O22, O23 and O34. -/

namespace Sys2Proof.Machine

open Sys2Proof.Safety

/-! ## The header test -/

theorem zlibHeaderOk_iff (cmf flg : Byte) :
    zlibHeaderOk cmf flg = true ↔ (cmf.toNat * 256 + flg.toNat) % 31 = 0 ∧ cmf.toNat / 16 ≤ 7 := by
  simp [zlibHeaderOk]

theorem takeBits8_record (s : State) (a : Nat) {l : Nat} (h : 1 ≤ l) :
    takeBits 8 (recordBits s a l) = some ((inByte s a).toNat, recordBits s (a + 1) (l - 1)) := by
  obtain ⟨n, rfl⟩ := Nat.exists_eq_add_of_le' h
  rw [recordBits, inBytes_succ, bitsOfBytes, takeBits_bitsOf, BitVec.toNat_mod_cancel]
  rfl

theorem decodeZlibHdr_record (s : State) (a : Nat) {l : Nat} (h : 2 ≤ l) :
    decodeZlibHdr (recordBits s a l) =
      if zlibHeaderOk (inByte s a) (inByte s (a + 1)) then
        .ok (.zlibHdr (inByte s a) (inByte s (a + 1)), recordBits s (a + 2) (l - 2))
      else .error .noHeader := by
  simp (disch := omega) [decodeZlibHdr, takeBits8_record, Nat.sub_sub, Nat.add_assoc]

/-- Where fewer than two bytes stand there is no header. -/
theorem decodeZlibHdr_short (s : State) (a : Nat) {l : Nat} (h : l < 2) :
    decodeZlibHdr (recordBits s a l) = .error .noHeader := by
  obtain rfl | rfl : l = 0 ∨ l = 1 := by omega
  · rfl
  · have hsecond : takeBits 8 (recordBits s (a + 1) 0) = none := rfl
    simp [decodeZlibHdr, takeBits8_record, hsecond]

/-- Settles O22: at a stream's start the place's bits are the bytes of the range, whose first two decide. -/
theorem zlibHeaderTest : Obligations.ZlibHeaderTest := by
  unfold Obligations.ZlibHeaderTest
  intro s cmf flg hhost hseq hphase hpos hcmf hflg
  subst hcmf hflg
  have hsite : nextSite s = some .zlibHdr := by simp [nextSite, hseq, hphase]
  have hbits : siteBits .zlibHdr (enterSite .zlibHdr s) = recordBits s s.brStart (s.brEnd - s.brStart) :=
    bitStream_aligned (a := 0) hpos
  refine ⟨fun htwo hmod hwindow => ?header, fun hnone => ?noHeader⟩
  case header =>
    have hok := (zlibHeaderOk_iff (inByte s s.brStart) (inByte s (s.brStart + 1))).2 ⟨hmod, hwindow⟩
    have hleft : 2 ≤ s.brEnd - s.brStart := by omega
    have hpast : pastToken .zlibHdr (8 * 2) s = { s with brPos := 16 } :=
      congrArg (fun p => { s with brPos := p + 16 }) hpos
    rw [← hpast]
    exact step_record hhost hsite hbits hleft ((decodeZlibHdr_record s _ hleft).trans (if_pos hok))
  case noHeader =>
    refine step_rejected (r := .noHeader) hhost hsite (hbits ▸ ?_)
    by_cases htwo : s.brEnd - s.brStart < 2
    · exact decodeZlibHdr_short s _ htwo
    · have hfails : ¬ zlibHeaderOk (inByte s s.brStart) (inByte s (s.brStart + 1)) = true := by
        rw [zlibHeaderOk_iff]
        omega
      exact (decodeZlibHdr_record s _ (not_lt.1 htwo)).trans (if_neg hfails)

/-! ## The envelope's tokens -/

theorem exec_zlibHdr (cmf flg : Byte) (s : State) :
    exec (.zlibHdr cmf flg) s =
      if flg.getLsbD 5 then .next { s with seq := .zHdr, phase := .tail }
      else .next { s with seq := .blkHdr, phase := .head } := rfl

theorem exec_adler32Trailer (t : Word) (s : State) :
    exec (.adler32Trailer t) s =
      if t.toNat ≠ s.adlerB * 65536 + s.adlerA then raise .checksumMismatch s
      else if s.outPos ≠ s.outCap then raise .shortOutput s
      else .next { s with seq := .blit, phase := .head } := rfl

/-- Settles O23: the trailer's compare comes before its count. -/
theorem zlibTokens : Obligations.ZlibTokens := by
  unfold Obligations.ZlibTokens
  intro s
  refine ⟨fun cmf flg hdict => ?dict, fun cmf flg hdict => ?noDict, fun _ => rfl, fun t hsum hfull => ?accepted,
    fun t hsum => ?mismatch, fun t hsum hshort => ?short⟩
  case dict => rw [exec_zlibHdr, if_pos hdict]
  case noDict => rw [exec_zlibHdr, if_neg (hdict ▸ Bool.false_ne_true)]
  case accepted => rw [exec_adler32Trailer, if_neg (not_not.2 hsum), if_neg (not_not.2 hfull)]
  case mismatch =>
    rw [exec_adler32Trailer, if_pos hsum]
    exact failsWith_raise_self .checksumMismatch s
  case short =>
    rw [exec_adler32Trailer, if_neg (not_not.2 hsum), if_pos hshort]
    exact failsWith_raise_self .shortOutput s

/-! ## The checksum of a run of output -/

/-- The bytes' weighted sum in ADLER_B (R309): each byte counts once for itself and once for each byte after it. -/
def weightedSum (bytes : List Byte) : Nat :=
  ∑ k ∈ Finset.range bytes.length, (bytes.length - k) * (bytes.map BitVec.toNat).getD k 0

theorem weightedSum_cons (b : Byte) (bytes : List Byte) :
    weightedSum (b :: bytes) = (bytes.length + 1) * b.toNat + weightedSum bytes := by
  rw [weightedSum, List.length_cons, Finset.sum_range_succ', Nat.add_comm]
  simp [weightedSum]

/-- From any sum `A`, ADLER_A adds the bytes up. -/
theorem putAll_adlerA (bytes : List Byte) {s : State} {A : Nat} (hA : s.adlerA = A % 65521) :
    (putAll bytes s).adlerA = (A + (bytes.map BitVec.toNat).sum) % 65521 := by
  induction bytes generalizing s A with
  | nil => exact hA
  | cons b bytes ih =>
    have hput : (put b s).adlerA = (A + b.toNat) % 65521 := by
      rw [put_adlerA, hA]
      exact Nat.mod_add_mod ..
    rw [putAll, ih hput, List.map_cons, List.sum_cons, Nat.add_assoc]

/-- From any sums `A` and `B`, ADLER_B adds `A` once per byte, and the weighted bytes. -/
theorem putAll_adlerB (bytes : List Byte) {s : State} {A B : Nat} (hA : s.adlerA = A % 65521)
    (hB : s.adlerB = B % 65521) :
    (putAll bytes s).adlerB = (B + bytes.length * A + weightedSum bytes) % 65521 := by
  induction bytes generalizing s A B with
  | nil => simpa [putAll, weightedSum] using hB
  | cons b bytes ih =>
    have hputA : (put b s).adlerA = (A + b.toNat) % 65521 := putAll_adlerA [b] hA
    have hputB : (put b s).adlerB = (B + (A + b.toNat)) % 65521 := by
      calc (put b s).adlerB = (s.adlerB + (put b s).adlerA) % 65521 := rfl
        _ = (B % 65521 + (A + b.toNat) % 65521) % 65521 := by rw [hB, hputA]
        _ = (B + (A + b.toNat)) % 65521 := (Nat.add_mod ..).symm
    rw [putAll, ih hputA hputB, weightedSum_cons, List.length_cons]
    congr 1
    ring

/-- Settles O34, by induction on the bytes from any two sums. -/
theorem adlerClosedForm : Obligations.AdlerClosedForm := by
  unfold Obligations.AdlerClosedForm
  intro bytes s hA hB
  refine ⟨putAll_adlerA bytes hA, ?adlerB, rfl, ?empty⟩
  case adlerB =>
    rw [putAll_adlerB bytes (A := 1) (B := 0) hA hB, Nat.zero_add, Nat.mul_one]
    rfl
  case empty =>
    rintro rfl
    simp [putAll, adlerValue, hA, hB]

end Sys2Proof.Machine
end

section
/-! The container's tokens (44_container.md): the file, frame and chunk headers, the chunk bodies and their records, and
the moves between them; O9, O10, O11, O12, O13, O15, O16, O17 and O18. -/

namespace Sys2Proof.Machine

open Sys2Proof.Safety

/-- An answer that raises a cause in a state with the host's registers as they were is the cause's failure. -/
theorem failsWith_of_eq_raise {c : Cause} {s s' : State} {o : Answer} {offset : Nat} (heq : o = raise c s')
    (ho : errAddress c s' = offset := by rfl) (hr : s'.res = s.res := by rfl) (hc : s'.ctrl = s.ctrl := by rfl)
    (hl : s'.inLen = s.inLen := by rfl) (hi : s'.inp = s.inp := by rfl) (he : s'.inEpoch = s.inEpoch := by rfl)
    (hh : s'.host = s.host := by rfl) (hx : s'.rx = s.rx := by rfl) (hp : s'.cfg = s.cfg := by rfl) :
    FailsWith c offset s o :=
  heq ▸ failsWith_raise ho hr hc hl hi he hh hx hp

/-! ## Capacities and depths -/

theorem exceeds_eq_true {n c : Nat} {cap : Option Nat} (hcap : cap = some c) (h : c < n) : exceeds n cap = true := by
  simp [exceeds, hcap, h]

theorem exceeds_eq_false {n : Nat} {cap : Option Nat} (h : ∀ c, cap = some c → n ≤ c) : exceeds n cap = false := by
  cases cap with
  | none => rfl
  | some c => simpa [exceeds] using h c rfl

/-- The two colour depths the block accepts (44_container.md R336). -/
theorem bytesPerPixel_of_depth {depth : Half} {b : Nat} (h : depth = 8 ∧ b = 1 ∨ depth = 32 ∧ b = 4) :
    bytesPerPixel depth.toNat = some b := by
  rcases h with ⟨rfl, rfl⟩ | ⟨rfl, rfl⟩
  · rfl
  · rfl

theorem bytesPerPixel_none {depth : Half} (h8 : depth ≠ 8) (h32 : depth ≠ 32) : bytesPerPixel depth.toNat = none :=
  (if_neg fun h => h8 (BitVec.eq_of_toNat_eq h)).trans (if_neg fun h => h32 (BitVec.eq_of_toNat_eq h))

/-! ## The file header -/

section
variable {s : State} {size : Word} {magic nframes width height depth : Half} {tkey : Byte}

theorem exec_fileHdr_badMagic (hmagic : magic ≠ s.cfg.fileMagic) :
    exec (.fileHdr size magic nframes width height depth tkey) s =
      raise .badFileMagic (headerFields size nframes width height depth tkey s) := if_pos hmagic

variable (hmagic : magic = s.cfg.fileMagic)
include hmagic

theorem exec_fileHdr_badSize (hsize : size.toNat < 128 ∨ s.inLen.toNat < size.toNat) :
    exec (.fileHdr size magic nframes width height depth tkey) s =
      raise .badFileSize (headerFields size nframes width height depth tkey s) :=
  (if_neg (not_not.2 hmagic)).trans (if_pos hsize)

variable (hmin : 128 ≤ size.toNat) (hmax : size.toNat ≤ s.inLen.toNat)
include hmin hmax

theorem exec_fileHdr_badDepth (hdepth : bytesPerPixel depth.toNat = none) :
    exec (.fileHdr size magic nframes width height depth tkey) s =
      raise .colorDepth (headerFields size nframes width height depth tkey s) := by
  refine (if_neg (not_not.2 hmagic)).trans ((if_neg (not_or.2 ⟨not_lt.2 hmin, not_lt.2 hmax⟩)).trans ?_)
  rw [headerFields_depth, hdepth]

/-- Past the magic, the size and the depth, the atlas's capacity decides (44_container.md R337). -/
theorem exec_fileHdr_sized {b : Nat} (hdepth : bytesPerPixel depth.toNat = some b) :
    exec (.fileHdr size magic nframes width height depth tkey) s =
      if exceeds (width.toNat * height.toNat * nframes.toNat * b) s.cfg.atlasCapacity then
        raise .atlasTooLarge { headerFields size nframes width height depth tkey s with bpp := b }
      else .next (startWalk { headerFields size nframes width height depth tkey s with bpp := b }) := by
  refine (if_neg (not_not.2 hmagic)).trans ((if_neg (not_or.2 ⟨not_lt.2 hmin, not_lt.2 hmax⟩)).trans ?_)
  rw [headerFields_depth, hdepth]
  rfl

end

/-- In ATLAS and PAL an unlisted byte is 0 (20_memory.md R72, R73). -/
theorem Memory.getD_find_of_read {m : Memory} {a : Nat} {b : Byte} (h : Memory.read (some 0) m a = some b) :
    (m.find a).getD 0 = b := by
  cases hfind : m.find a with
  | none => simpa [Memory.read, hfind] using h
  | some c => simpa [Memory.read, hfind] using h

/-- Every byte of a fresh atlas is its fill value (45_atlas.md R380). -/
theorem atlasByte_fillCells {s : State} {n a : Nat} {b : Byte} (hatlas : s.atlas = fillCells n b) (h : a < n) :
    atlasByte s a = b := by
  rw [atlasByte, hatlas]
  exact Memory.getD_find_of_read (fillCells_read n a b h)

/-- What the walk's start writes, whether or not there is a frame (44_container.md R337 to R339). -/
theorem startWalk_eq (s : State) :
    startWalk s = { s with
      atlas := fillCells (atlasSize s) (if s.bpp = 1 then s.tkey else 0), atlasLen := atlasSize s
      dur := List.replicate s.nframes 0, tags := [], slices := [], palCount := 0, cur := 128
      frameIdx := if s.nframes = 0 then s.frameIdx else 0
      seq := if s.nframes = 0 then (if s.flipL then .flip else .done) else .frameHdr, phase := .head } := by
  by_cases hframes : s.nframes = 0
  · simp [startWalk, initAtlas, frameLoop, afterFrames, Config.headerSize, hframes]
  · simp [startWalk, initAtlas, frameLoop, Config.headerSize, hframes, Nat.pos_of_ne_zero hframes]

/-- Settles O9: past every check the meaning is the walk's start, whose atlas is the fill. -/
theorem fileHeaderCompletes : Obligations.FileHeaderCompletes := by
  unfold Obligations.FileHeaderCompletes
  intro s size magic nframes width height depth tkey b n hmagic hmin hmax hdepth hn hcap
  subst hn
  have hexec := exec_fileHdr_sized (nframes := nframes) (width := width) (height := height) (tkey := tkey) hmagic hmin
    hmax (bytesPerPixel_of_depth hdepth)
  rw [if_neg (by simp [exceeds_eq_false hcap]), startWalk_eq] at hexec
  refine ⟨_, hexec, ?frame, fun a ha => ?fill, fun a ha => ?beyond⟩
  case frame =>
    by_cases hframes : nframes = 0#16
    · simp [hframes, headerFields, atlasSize]
    · have hcount : nframes.toNat ≠ 0 := mt (BitVec.eq_of_toNat_eq (y := 0#16)) hframes
      simp [hframes, hcount, headerFields, atlasSize]
  case fill => exact atlasByte_fillCells rfl ha
  case beyond =>
    refine Option.eq_none_iff_forall_ne_some.2 fun b' hfind => ?_
    exact absurd (fillCells_listedBelow _ _ _ _ hfind) (not_lt.2 ha)

/-- Settles O10: each check of the meaning, where those before it pass. -/
theorem fileHeaderFailures : Obligations.FileHeaderFailures := by
  unfold Obligations.FileHeaderFailures
  intro s size magic nframes width height depth tkey
  refine ⟨fun hmagic => ?magic, fun hmagic hsize => ?size, fun hmagic hmin hmax h8 h32 => ?depth,
    fun b cap hmagic hmin hmax hdepth hcap hlarge => ?capacity⟩
  case magic => exact failsWith_of_eq_raise (exec_fileHdr_badMagic hmagic)
  case size => exact failsWith_of_eq_raise (exec_fileHdr_badSize hmagic hsize)
  case depth => exact failsWith_of_eq_raise (exec_fileHdr_badDepth hmagic hmin hmax (bytesPerPixel_none h8 h32))
  case capacity =>
    have hexec := exec_fileHdr_sized (nframes := nframes) (width := width) (height := height) (tkey := tkey) hmagic
      hmin hmax (bytesPerPixel_of_depth hdepth)
    exact failsWith_of_eq_raise (hexec.trans (if_pos (exceeds_eq_true hcap hlarge)))

/-! ## Frame and chunk headers -/

/-- Settles O11: the meaning checks the magic, then the size. -/
theorem frameHeader : Obligations.FrameHeader := by
  unfold Obligations.FrameHeader
  intro s bytes magic legacy duration newCount
  refine ⟨fun hmagic hmin hmax => ?accepted, fun hmagic => ?magic, fun hmagic hsize => ?size⟩
  case accepted =>
    exact (if_neg (not_not.2 hmagic)).trans (if_neg (not_or.2 ⟨not_lt.2 hmin, not_lt.2 hmax⟩))
  case magic => exact failsWith_of_eq_raise (s' := enterFrame s) (if_pos hmagic)
  case size =>
    exact failsWith_of_eq_raise (s' := enterFrame s) ((if_neg (not_not.2 hmagic)).trans (if_pos hsize))

/-- Settles O12: the meaning's one check is the size. -/
theorem chunkHeader : Obligations.ChunkHeader := by
  unfold Obligations.ChunkHeader
  intro s size type
  exact ⟨fun hmin hmax => if_neg (not_or.2 ⟨not_lt.2 hmin, not_lt.2 hmax⟩),
    fun hsize => failsWith_of_eq_raise (s' := enterChunk s) (if_pos hsize)⟩

/-! ## Chunk bodies -/

/-- Settles O13: the meaning's one check is the range. -/
theorem paletteChunk : Obligations.PaletteChunk := by
  unfold Obligations.PaletteChunk
  intro s count first last
  refine ⟨fun hcount hlast hfirst => if_neg ?_, fun hrange => failsWith_of_eq_raise (s' := s) (if_pos hrange)⟩
  simp only [Config.palCapacity]
  omega

/-- Past the capacity check, the canvas decides (44_container.md R363, R364). -/
theorem exec_celCompressed_sized {s : State} {w h : Half}
    (hcap : ∀ cap, s.cfg.tileCapacity = some cap → w.toNat * h.toNat * s.bpp ≤ cap) :
    exec (.celCompressed w h) s =
      if (s.width : Int) < s.celX + w.toNat ∨ (s.height : Int) < s.celY + h.toNat then
        raise .celOutOfCanvas { s with celW := w.toNat, celH := h.toNat }
      else .next (startStream (s.chunkStart + 26) s.chunkEnd (w.toNat * h.toNat * s.bpp)
        { s with celW := w.toNat, celH := h.toNat }) :=
  if_neg (by simp [exceeds_eq_false hcap])

/-- Settles O15: the offsets' signs decide, and then the tile's capacity before the canvas. -/
theorem celTokens : Obligations.CelTokens := by
  unfold Obligations.CelTokens
  refine ⟨fun s x y => ⟨fun hx hy => ?offsets, fun hneg => ?negative⟩,
    fun s w h => ⟨fun hcap hw hh => ?stream, fun cap hcap hlarge => ?capacity, fun hcap hout => ?canvas⟩,
    fun s type => failsWith_raise_self .celType s⟩
  case offsets => exact if_neg (not_or.2 ⟨not_lt.2 hx, not_lt.2 hy⟩)
  case negative =>
    exact failsWith_of_eq_raise (s' := { s with celX := x.toInt, celY := y.toInt }) (if_pos hneg)
  case stream =>
    exact ⟨_, (exec_celCompressed_sized hcap).trans (if_neg (not_or.2 ⟨not_lt.2 hw, not_lt.2 hh⟩)), rfl⟩
  case capacity =>
    exact failsWith_of_eq_raise (s' := { s with celW := w.toNat, celH := h.toNat })
      (if_pos (exceeds_eq_true hcap hlarge))
  case canvas => exact failsWith_of_eq_raise ((exec_celCompressed_sized hcap).trans (if_pos hout))

/-- Settles O16: a slice chunk's flags are checked before its keys; the other meanings check nothing. -/
theorem tagAndSliceTokens : Obligations.TagAndSliceTokens := by
  unfold Obligations.TagAndSliceTokens
  refine ⟨fun _ _ => rfl, fun _ _ _ _ => rfl, fun s nkeys label hkeys => ?accepted,
    fun s nkeys flags label hflags => ?flags, fun s label => ?noKeys, fun _ _ _ _ _ => rfl⟩
  case accepted => exact if_neg hkeys
  case flags => exact failsWith_execChunkSlice_flags nkeys hflags label s s.q
  case noKeys => exact failsWith_raise_self .sliceNoKeys s

/-! ## Moves of the walk -/

/-- The dispatch of a chunk's type reads nothing of a body it does not know (44_container.md R349). -/
theorem step_chunkOther {s : State} (hhost : s.host = []) (hseq : s.seq = .chunkHdr) (hphase : s.phase = .tail)
    (htype : knownChunkType s.ctype = false) :
    step s = exec (.chunkOther s.ctype) { s with q := s.chunkStart + 6 } :=
  step_chunkType (b := s.chunkStart + 6) (n := 0) hhost hseq hphase (Nat.zero_le _)
    (decodeChunkOther_encode htype Table.empty _)

/-- A skipped chunk ends (44_container.md R345). -/
theorem step_skip {s : State} (hhost : s.host = []) (hseq : s.seq = .skip) : step s = .next (endChunk s) := by
  rw [step_sequence hhost (by simp [nextSite, hseq]), sequence, hseq]
  rfl

/-- Settles O17: the dispatch moves to SKIP, whose step ends the chunk. -/
theorem skippedChunk : Obligations.SkippedChunk := by
  unfold Obligations.SkippedChunk
  refine ⟨fun _ _ => rfl, fun s hhost hseq hphase hpalette hcel htags hslice => ?_⟩
  have htype : knownChunkType s.ctype = false := by
    simpa only [knownChunkType, Bool.or_eq_false_iff, beq_eq_false_iff_ne, and_assoc] using
      ⟨hpalette, hcel, htags, hslice⟩
  exact ⟨{ s with q := s.chunkStart + 6, seq := .skip, phase := .head }, _, step_chunkOther hhost hseq hphase htype,
    step_skip hhost rfl, rfl⟩

theorem step_frameEndCheck {s : State} (hhost : s.host = []) (hseq : s.seq = .frameEndCheck) :
    step s = if s.cur ≠ s.frameEnd then raise .frameSizeMismatch s else .next (frameLoop (s.frameIdx + 1) s) := by
  rw [step_sequence hhost (by simp [nextSite, hseq]), sequence, hseq]
  rfl

/-- Settles O18: where a loop's condition fails no token is read, and the step is the sequencer's move. -/
theorem loopEnds : Obligations.LoopEnds := by
  unfold Obligations.LoopEnds
  intro s hhost
  refine ⟨fun hseq hdone => ?palette, fun hseq hdone => ?tags, fun hseq hphase hdone => ?chunks,
    fun hseq hcur => ?mismatch, fun hseq hcur hnext => ?nextFrame, fun hseq hcur hlast => ?lastFrame⟩
  case palette =>
    rw [step_sequence hhost (by simp [nextSite, hseq, hdone]), sequence, hseq]
    rfl
  case tags =>
    rw [step_sequence hhost (by simp [nextSite, hseq, hdone]), sequence, hseq]
    rfl
  case chunks =>
    rw [step_sequence hhost (by simp [nextSite, hseq, hphase, hdone]), sequence, hseq]
    rfl
  case mismatch =>
    exact failsWith_of_eq_raise (s' := s) ((step_frameEndCheck hhost hseq).trans (if_pos hcur))
  case nextFrame =>
    rw [step_frameEndCheck hhost hseq, if_neg (not_not.2 hcur), frameLoop, if_pos hnext]
  case lastFrame =>
    rw [step_frameEndCheck hhost hseq, if_neg (not_not.2 hcur), frameLoop, if_neg (not_lt.2 hlast)]
    rfl

end Sys2Proof.Machine
end

section
/-! The entries of a palette chunk (44_container.md R352, R353): O14. -/

namespace Sys2Proof.Machine

open Sys2Proof.Safety

/-! ## The entry's four bytes -/

section
variable {s t : State} {k : Nat} {src : Nat → Byte} (hpal : t.pal = Memory.fill (some 0) s.pal (4 * k) src 4)
include hpal

theorem palByte_fill_same (hwf : Memory.wf (some 0) s.pal = true) {j : Nat} (hj : j < 4) : palByte t k j = src j := by
  rw [palByte, hpal]
  exact Memory.getD_find_of_read (Memory.read_fill_inside 4 hwf hj)

theorem palByte_fill_other {k' j : Nat} (hj : j < 4) (hk : k' ≠ k) : palByte t k' j = palByte s k' j := by
  rw [palByte, hpal, Memory.find_fill_other 4 (by omega), palByte]

end

/-- What an entry writes, and its frame (44_container.md R352). -/
theorem exec_palEntry {s : State} (hwf : Memory.wf (some 0) s.pal = true) (flags : Half) (r g b a : Byte) :
    ∃ t, exec (.palEntry flags r g b a) s = .next t ∧ t = { s with pal := t.pal, palK := s.palK + 1 } ∧
      (∀ j < 4, palByte t s.palK j = [r, g, b, a].getD j 0) ∧
      ∀ k j, j < 4 → k ≠ s.palK → palByte t k j = palByte s k j := by
  refine ⟨_, rfl, rfl, fun _ hj => ?own, fun _ _ hj hk => ?others⟩
  case own => exact palByte_fill_same (src := fun j => [r, g, b, a].getD j 0) rfl hwf hj
  case others => exact palByte_fill_other (src := fun j => [r, g, b, a].getD j 0) rfl hj hk

/-! ## The step at an entry -/

/-- The name flag is bit 0 of the entry's first byte (30_encoding.md R105). -/
theorem hasName_u16le (s : State) (a : Nat) : hasName (.ofNat 16 (u16le s a)) = (inByte s a).getLsbD 0 := by
  have hlow : u16le s a % 2 = (inByte s a).toNat % 2 := by unfold u16le; omega
  simp [hasName, BitVec.getLsbD, Nat.testBit_zero, hlow]

theorem decodePalEntry_record (s : State) (a : Nat) {l : Nat} (h : 6 ≤ l) :
    decodePalEntry (recordBits s a l) =
      .ok (if (inByte s a).getLsbD 0 then .palEntryNamed (.ofNat 16 (u16le s a))
        else .palEntry (.ofNat 16 (u16le s a)) (inByte s (a + 2)) (inByte s (a + 3)) (inByte s (a + 4))
          (inByte s (a + 5)), recordBits s (a + 6) (l - 6)) := by
  have hflag := hasName_u16le s a
  cases hname : (inByte s a).getLsbD 0 <;>
    simp (disch := omega) [decodePalEntry, field8_record, field16_record, hflag.trans hname, Nat.sub_sub, Nat.add_assoc]

theorem step_palEntry {s : State} (hhost : s.host = []) (hseq : s.seq = .palette) (hleft : s.palK ≤ s.palLast)
    (hfits : s.q + 6 ≤ s.chunkEnd) :
    step s = exec (if (inByte s s.q).getLsbD 0 then .palEntryNamed (.ofNat 16 (u16le s s.q))
      else .palEntry (.ofNat 16 (u16le s s.q)) (inByte s (s.q + 2)) (inByte s (s.q + 3)) (inByte s (s.q + 4))
        (inByte s (s.q + 5))) { s with q := s.q + 6 } := by
  have hn : 6 ≤ s.chunkEnd - s.q := by omega
  have hstep := step_record (site := .palEntry) hhost (by simp [nextSite, hseq, hleft]) rfl hn
    (decodePalEntry_record s s.q hn)
  exact hstep

/-- Settles O14: the entry's meaning fills the four bytes of its index, and the step reads the operands at the body
cursor. -/
theorem paletteEntries : Obligations.PaletteEntries := by
  unfold Obligations.PaletteEntries
  refine ⟨fun s flags r g b a hform => ?entry, fun s flags => failsWith_raise_self .paletteName s,
    fun s hhost hseq hleft hfits hname => ?stepNamed, fun s hform hhost hseq hleft hfits hname => ?stepEntry⟩
  case entry =>
    obtain ⟨t, hexec, ht, hbytes, hothers⟩ := exec_palEntry hform.pal flags r g b a
    exact ⟨t, hexec, ht, hbytes 0 (by decide), hbytes 1 (by decide), hbytes 2 (by decide), hbytes 3 (by decide),
      hothers⟩
  case stepNamed =>
    rw [step_palEntry hhost hseq hleft hfits, if_pos hname]
    exact failsWith_of_eq_raise (s' := { s with q := s.q + 6 }) rfl
  case stepEntry =>
    obtain ⟨t, hexec, ht, hbytes, hothers⟩ := exec_palEntry (s := { s with q := s.q + 6 }) hform.pal
      (.ofNat 16 (u16le s s.q)) (inByte s (s.q + 2)) (inByte s (s.q + 3)) (inByte s (s.q + 4)) (inByte s (s.q + 5))
    refine ⟨t, ?_, ht, fun j hj => (hbytes j hj).trans ?_, hothers⟩
    · rw [step_palEntry hhost hseq hleft hfits, hname]
      exact hexec
    · interval_cases j
      all_goals rfl

end Sys2Proof.Machine
end

section
/-! Input that ends inside a token (44_container.md, 42_inflate.md, 43_zlib_adler.md; 60_exceptions.md R401): O21. -/

namespace Sys2Proof.Machine

open Sys2Proof.Safety

/-! ## What a decoder needs -/

/-- What is read from `bs` is refused as cut off where fewer than `n` bits stand. -/
def Needs (n : Nat) (bs : Bits) (r : Decoded) : Prop := bs.length < n → r = .error .short

theorem needs_zero (bs : Bits) (r : Decoded) : Needs 0 bs r := fun h => absurd h (Nat.not_lt_zero _)

/-- After a field, the rest needs what is left of the need. -/
theorem needs_field {m n : Nat} {bs : Bits} {k : Nat → Bits → Decoded}
    (hk : ∀ v rest, Needs (n - m) rest (k v rest)) : Needs n bs (field m bs k) := by
  intro hbs
  by_cases hm : bs.length < m
  · exact field_short k hm
  · rw [field, takeBits_eq, if_neg hm]
    exact hk _ _ (by rw [List.length_drop]; omega)

theorem needs_skip {m n : Nat} {bs : Bits} {k : Bits → Decoded} (hk : ∀ rest, Needs (n - m) rest (k rest)) :
    Needs n bs (skip m bs k) := by
  intro hbs
  by_cases hm : bs.length < m
  · exact if_pos hm
  · rw [skip, if_neg hm]
    exact hk _ (by rw [List.length_drop]; omega)

section
variable (bs : Bits)

/-! ## The decoders of container records -/

theorem needs_decodeFileHdr : Needs 1024 bs (decodeFileHdr bs) :=
  needs_field fun _ _ => needs_field fun _ _ => needs_field fun _ _ => needs_field fun _ _ => needs_field fun _ _ =>
  needs_field fun _ _ => needs_skip fun _ => needs_field fun _ _ => needs_skip fun _ => needs_zero _ _

theorem needs_decodeFrameHdr : Needs 128 bs (decodeFrameHdr bs) :=
  needs_field fun _ _ => needs_field fun _ _ => needs_field fun _ _ => needs_field fun _ _ => needs_skip fun _ =>
  needs_field fun _ _ => needs_zero _ _

theorem needs_decodeChunkHdr : Needs 48 bs (decodeChunkHdr bs) :=
  needs_field fun _ _ => needs_field fun _ _ => needs_zero _ _

theorem needs_decodePaletteBody : Needs 160 bs (decodePaletteBody bs) :=
  needs_field fun _ _ => needs_field fun _ _ => needs_field fun _ _ => needs_skip fun _ => needs_zero _ _

theorem needs_decodeCelBody : Needs 128 bs (decodeCelBody bs) :=
  needs_skip fun _ => needs_field fun _ _ => needs_field fun _ _ => needs_skip fun _ => needs_zero _ _

theorem needs_decodeTagsBody : Needs 80 bs (decodeTagsBody bs) :=
  needs_field fun _ _ => needs_skip fun _ => needs_zero _ _

theorem needs_decodeSliceBody : Needs 112 bs (decodeSliceBody bs) :=
  needs_field fun _ _ => needs_field fun _ _ => needs_skip fun _ => needs_field fun _ _ => needs_zero _ _

theorem needs_decodePalEntry : Needs 48 bs (decodePalEntry bs) :=
  needs_field fun _ _ => needs_field fun _ _ => needs_field fun _ _ => needs_field fun _ _ => needs_field fun _ _ =>
  needs_zero _ _

theorem needs_decodeTagRec : Needs 152 bs (decodeTagRec bs) :=
  needs_field fun _ _ => needs_field fun _ _ => needs_skip fun _ => needs_field fun _ _ => needs_zero _ _

theorem needs_decodeSliceKey : Needs 160 bs (decodeSliceKey bs) :=
  needs_skip fun _ => needs_field fun _ _ => needs_field fun _ _ => needs_field fun _ _ => needs_field fun _ _ =>
  needs_zero _ _

/-! ## The decoders of the stream -/

theorem needs_decodeDictId : Needs 32 bs (decodeDictId bs) :=
  needs_field fun _ _ => needs_field fun _ _ => needs_zero _ _

theorem needs_decodeTrailer : Needs 32 bs (decodeTrailer bs) :=
  needs_field fun _ _ => needs_field fun _ _ => needs_field fun _ _ => needs_field fun _ _ => needs_zero _ _

theorem needs_decodeBlkHdr : Needs 3 bs (decodeBlkHdr bs) :=
  needs_field fun _ _ => needs_field fun _ _ => needs_zero _ _

theorem needs_decodeStoredHdr : Needs 32 bs (decodeStoredHdr bs) :=
  needs_field fun _ _ => needs_field fun _ _ => needs_zero _ _

theorem needs_decodeDynHdr : Needs 14 bs (decodeDynHdr bs) :=
  needs_field fun _ _ => needs_field fun _ _ => needs_field fun _ _ => needs_zero _ _

theorem needs_decodeClLen : Needs 3 bs (decodeClLen bs) := needs_field fun _ _ => needs_zero _ _

end

/-! ## Records whose need depends on what they hold -/

section
variable {s : State} {a l : Nat}

/-- A slice body whose label is cut off (44_container.md R375). -/
theorem decodeSliceBody_record_short (hflags : u32le s (a + 4) = 0) (h : l < 14 + u16le s (a + 12)) :
    decodeSliceBody (recordBits s a l) = .error .short := by
  by_cases hfields : l < 14
  · exact needs_decodeSliceBody _ (by rw [recordBits_length]; omega)
  · have hlabel : takeBytes (u16le s (a + 12)) (recordBits s (a + 14) (l - 14)) = none :=
      takeBytes_none (by rw [recordBits_length]; omega)
    simp (disch := omega) [decodeSliceBody, field16_record, field32_record, skip_record, Nat.sub_sub, Nat.add_assoc,
      hflags, hlabel]

/-- A compressed cel whose size is cut off (44_container.md R362). -/
theorem decodeCelType_record_short (htype : u16le s a = 2) (h : l < 13) :
    decodeCelType (recordBits s a l) = .error .short := by
  by_cases hfield : l < 2
  · exact field_short _ (by rw [recordBits_length]; omega)
  · rw [decodeCelType, field16_record _ _ _ (by omega), if_pos htype]
    refine needs_skip (n := 88) (fun _ => needs_field fun _ _ => needs_field fun _ _ => needs_zero _ _) ?_
    rw [recordBits_length]
    omega

/-- A tag record whose label is cut off (44_container.md R370). -/
theorem decodeTagRec_record_short (h : l < 19 + u16le s (a + 17)) :
    decodeTagRec (recordBits s a l) = .error .short := by
  by_cases hfields : l < 19
  · exact needs_decodeTagRec _ (by rw [recordBits_length]; omega)
  · have hlabel : takeBytes (u16le s (a + 17)) (recordBits s (a + 19) (l - 19)) = none :=
      takeBytes_none (by rw [recordBits_length]; omega)
    simp (disch := omega) [decodeTagRec, field16_record, skip_record, Nat.sub_sub, Nat.add_assoc, hlabel]

end

/-! ## The step at a token that is cut off -/

section
variable {s : State} (hhost : s.host = [])
include hhost

/-- At every place, a token that is cut off is the failure with the place's cause (60_exceptions.md R401, R403). -/
theorem failsWith_short {site : Site} {c : Cause} {offset : Nat} (hsite : nextSite s = some site)
    (hd : decode site (siteTable site (enterSite site s)) (siteBits site (enterSite site s)) = .error .short)
    (hc : shortCause site = c := by rfl) (ho : errAddress c (enterSite site s) = offset := by rfl) :
    FailsWith c offset s (step s) := by
  subst hc
  have hstep := step_rejected hhost hsite hd
  cases site <;> exact failsWith_of_eq_raise hstep ho

/-- A chunk body that is cut off, whose bytes stand from offset 6 on (30_encoding.md R104). -/
theorem failsWith_chunkBodyShort (hseq : s.seq = .chunkHdr) (hphase : s.phase = .tail)
    (hd : decodeChunkType (bitsOf 16 s.ctype.toNat ++
      recordBits s (s.chunkStart + 6) (s.chunkEnd - (s.chunkStart + 6))) = .error .short) :
    FailsWith .chunkBodyShort s.chunkStart s (step s) :=
  failsWith_short hhost (site := .chunkType) (by simp [nextSite, hseq, hphase]) hd

end

theorem byteBits_length (s : State) (a stop : Nat) : (byteBits s a stop).length = 8 * (stop - a) := by
  rw [byteBits_eq_recordBits, recordBits_length]

/-- Settles O21: at each place the bits that stand there are fewer than its decoder needs. -/
theorem shortInputFails : Obligations.ShortInputFails := by
  unfold Obligations.ShortInputFails
  intro s hhost
  refine ⟨fun hseq hshort => ?fileHdr, fun hseq hshort => ?frameHdr, fun hseq hphase hleft hshort => ?chunkHdr,
    fun hseq hphase hshort => ?chunkBody, fun hseq hleft hshort => ?palEntry, fun hseq htype hshort => ?celType,
    fun hseq hleft hshort => ?tagRec, fun hseq hshort => ?sliceKey, fun hshort => ?stream⟩
  case fileHdr =>
    have hbits : (byteBits s 0 (min s.inLen.toNat 128)).length < 1024 := by rw [byteBits_length]; omega
    exact failsWith_short hhost (site := .fileHdr) (by simp [nextSite, hseq]) (needs_decodeFileHdr _ hbits)
  case frameHdr =>
    have hbits : (byteBits (enterFrame s) s.cur (min s.fileSize (s.cur + 16))).length < 128 := by
      rw [byteBits_length]; omega
    exact failsWith_short hhost (site := .frameHdr) (by simp [nextSite, hseq]) (needs_decodeFrameHdr _ hbits)
  case chunkHdr =>
    have hbits : (byteBits (enterChunk s) s.cur (min s.frameEnd (s.cur + 6))).length < 48 := by
      rw [byteBits_length]; omega
    exact failsWith_short hhost (site := .chunkHdr) (by simp [nextSite, hseq, hphase, hleft])
      (needs_decodeChunkHdr _ hbits)
  case chunkBody =>
    refine failsWith_chunkBodyShort hhost hseq hphase ?_
    have hlen := recordBits_length s (s.chunkStart + 6) (s.chunkEnd - (s.chunkStart + 6))
    rcases hshort with ⟨htype, hshort⟩ | ⟨htype, hshort⟩ | ⟨htype, hshort⟩ | ⟨htype, hshort⟩ | ⟨htype, hflags, hshort⟩
    · simpa [htype, decodeChunkType] using needs_decodePaletteBody _ (by rw [hlen]; omega)
    · simpa [htype, decodeChunkType] using needs_decodeCelBody _ (by rw [hlen]; omega)
    · simpa [htype, decodeChunkType] using needs_decodeTagsBody _ (by rw [hlen]; omega)
    · simpa [htype, decodeChunkType] using needs_decodeSliceBody _ (by rw [hlen]; omega)
    · have hlabel : s.chunkEnd - (s.chunkStart + 6) < 14 + u16le s (s.chunkStart + 18) := by omega
      simpa [htype, decodeChunkType] using decodeSliceBody_record_short hflags hlabel
  case palEntry =>
    have hbits : (byteBits s s.q s.chunkEnd).length < 48 := by rw [byteBits_length]; omega
    exact failsWith_short hhost (site := .palEntry) (by simp [nextSite, hseq, hleft]) (needs_decodePalEntry _ hbits)
  case celType =>
    have hbytes : s.chunkEnd - (s.chunkStart + 13) < 13 := by omega
    exact failsWith_short hhost (site := .celType) (by simp [nextSite, hseq]) (decodeCelType_record_short htype hbytes)
  case tagRec =>
    have hbytes : s.chunkEnd - s.q < 19 + u16le s (s.q + 17) := by omega
    exact failsWith_short hhost (site := .tagRec) (by simp [nextSite, hseq, hleft]) (decodeTagRec_record_short hbytes)
  case sliceKey =>
    have hbits : (byteBits s s.q s.chunkEnd).length < 160 := by rw [byteBits_length]; omega
    exact failsWith_short hhost (site := .sliceKey) (by simp [nextSite, hseq]) (needs_decodeSliceKey _ hbits)
  case stream =>
    rcases hshort with ⟨hseq, hphase, hshort⟩ | ⟨hseq, hphase, hshort⟩ | ⟨hseq, hshort⟩ | ⟨hseq, hshort⟩ |
      ⟨hseq, hleft, hshort⟩ | ⟨hseq, hshort⟩
    all_goals rw [← bitStream_length] at hshort
    · exact failsWith_short hhost (site := .dictId) (by simp [nextSite, hseq, hphase]) (needs_decodeDictId _ hshort)
    · exact failsWith_short hhost (site := .blkHdr) (by simp [nextSite, hseq, hphase]) (needs_decodeBlkHdr _ hshort)
    · exact failsWith_short hhost (site := .storedHdr) (by simp [nextSite, hseq]) (needs_decodeStoredHdr _ hshort)
    · exact failsWith_short hhost (site := .dynHdr) (by simp [nextSite, hseq]) (needs_decodeDynHdr _ hshort)
    · exact failsWith_short hhost (site := .clLen) (by simp [nextSite, hseq, hleft]) (needs_decodeClLen _ hshort)
    · exact failsWith_short hhost (site := .trailer) (by simp [nextSite, hseq]) (needs_decodeTrailer _ hshort)

end Sys2Proof.Machine
end

section
/-! SUPPORT. Two loads side by side (45_atlas.md R387): which registers hold what the load itself has written, and where a
load reads IN. -/

namespace Sys2Proof.Machine

open Sys2Proof.Safety

/-! ## What a load has written -/

/-- Sequencer states between FILE_HDR and the publication, where the header's registers are written. -/
def inWalk (seq : Seq) : Bool :=
  match seq with
  | .flip | .done => true
  | seq => inFrame seq

/-- Sequencer states behind a frame's header. -/
def behindFrameHdr (seq : Seq) : Bool :=
  match seq with
  | .frameHdr => false
  | seq => inFrame seq

/-- Sequencer states in a chunk's body. -/
def inChunkBody (seq : Seq) : Bool :=
  match seq with
  | .chunkHdr => false
  | seq => inChunk seq .head

/-- Sequencer states behind a cel's offsets. -/
def inCel (seq : Seq) : Bool :=
  match seq with
  | .cel => true
  | seq => inStream seq

/-- Sequencer states between a block's header and its end. -/
def inBlock (seq : Seq) (phase : Phase) : Bool :=
  match seq, phase with
  | .blkHdr, .tail => true
  | .stored, _ | .fixedSetup, _ | .dynHdr, _ | .dynCl, _ | .dynLens, _ | .symbols, _ => true
  | _, _ => false

/-- Sequencer states in which the code lengths of a dynamic block are read. -/
def inCodeLengths : Seq → Bool
  | .dynCl | .dynLens => true
  | _ => false

/-- Between a match length and its distance. -/
def inMatch (seq : Seq) (phase : Phase) : Bool :=
  match seq, phase with
  | .symbols, .tail => true
  | _, _ => false

/-- `s`, but for what a load at this place of the sequencer has not written: those registers and TILE are `d`'s, and so are
IN, FLIP and what the host last read. LENS is `d`'s throughout, because a load writes its entries one by one. -/
def withStale (seq : Seq) (phase : Phase) (s d : State) : State :=
  { s with
    ctrl := d.ctrl, rx := d.rx, inp := d.inp, inEpoch := d.inEpoch, tileEpoch := d.tileEpoch, depth := d.depth
    lens := d.lens
    fileSize := bif inWalk seq then s.fileSize else d.fileSize
    nframes := bif inWalk seq then s.nframes else d.nframes
    width := bif inWalk seq then s.width else d.width
    height := bif inWalk seq then s.height else d.height
    bpp := bif inWalk seq then s.bpp else d.bpp
    tkey := bif inWalk seq then s.tkey else d.tkey
    palCount := bif inWalk seq then s.palCount else d.palCount
    cur := bif inWalk seq then s.cur else d.cur
    frameIdx := bif inFrame seq then s.frameIdx else d.frameIdx
    frameStart := bif behindFrameHdr seq then s.frameStart else d.frameStart
    frameEnd := bif behindFrameHdr seq then s.frameEnd else d.frameEnd
    chunksLeft := bif behindFrameHdr seq then s.chunksLeft else d.chunksLeft
    chunkStart := bif inChunk seq phase then s.chunkStart else d.chunkStart
    chunkEnd := bif inChunk seq phase then s.chunkEnd else d.chunkEnd
    ctype := bif inChunk seq phase then s.ctype else d.ctype
    q := bif inChunkBody seq then s.q else d.q
    palK := bif seq == .palette then s.palK else d.palK
    palLast := bif seq == .palette then s.palLast else d.palLast
    palNew := bif seq == .palette then s.palNew else d.palNew
    tagI := bif seq == .tags then s.tagI else d.tagI
    tagN := bif seq == .tags then s.tagN else d.tagN
    sliceLabel := bif seq == .slice then s.sliceLabel else d.sliceLabel
    celX := bif inCel seq then s.celX else d.celX
    celY := bif inCel seq then s.celY else d.celY
    celW := bif inStream seq then s.celW else d.celW
    celH := bif inStream seq then s.celH else d.celH
    brStart := bif inStream seq then s.brStart else d.brStart
    brEnd := bif inStream seq then s.brEnd else d.brEnd
    brPos := bif inStream seq then s.brPos else d.brPos
    outPos := bif inStream seq then s.outPos else d.outPos
    outCap := bif inStream seq then s.outCap else d.outCap
    adlerA := bif inStream seq then s.adlerA else d.adlerA
    adlerB := bif inStream seq then s.adlerB else d.adlerB
    tile := bif inStream seq then s.tile else d.tile
    bfinal := bif inBlock seq phase then s.bfinal else d.bfinal
    btype := bif inBlock seq phase then s.btype else d.btype
    hlit := bif inCodeLengths seq then s.hlit else d.hlit
    hdist := bif inCodeLengths seq then s.hdist else d.hdist
    hclen := bif seq == .dynCl then s.hclen else d.hclen
    clLens := bif seq == .dynCl then s.clLens else d.clLens
    clI := bif seq == .dynCl then s.clI else d.clI
    clTab := bif seq == .dynLens then s.clTab else d.clTab
    lensN := bif seq == .dynLens then s.lensN else d.lensN
    litTab := bif seq == .symbols then s.litTab else d.litTab
    distTab := bif seq == .symbols then s.distTab else d.distTab
    matchLen := bif inMatch seq phase then s.matchLen else d.matchLen }

/-- No host action is pending, and where a load at this sequencer state may read, the two states have the same input: below
IN_LEN, which bounds the file and the stream (44_container.md R335). A conjunction and no structure, so that it holds by
definition after an update of any other field. -/
def SameReads (seq : Seq) (s t : State) : Prop :=
  s.host = [] ∧ (∀ a < s.inLen.toNat, inByte s a = inByte t a) ∧ (inFrame seq = true → s.fileSize ≤ s.inLen.toNat) ∧
    (inStream seq = true → s.brEnd ≤ s.inLen.toNat)

section
variable {seq : Seq} {s t : State} (h : SameReads seq s t)
include h

theorem SameReads.host : s.host = [] := by
  obtain ⟨hhost, -⟩ := h
  exact hhost

theorem SameReads.bytes : ∀ a < s.inLen.toNat, inByte s a = inByte t a := by
  obtain ⟨-, hbytes, -⟩ := h
  exact hbytes

theorem SameReads.file (hf : inFrame seq = true) : s.fileSize ≤ s.inLen.toNat := by
  obtain ⟨-, -, hfile, -⟩ := h
  exact hfile hf

theorem SameReads.stream (hs : inStream seq = true) : s.brEnd ≤ s.inLen.toNat := by
  obtain ⟨-, -, -, hstream⟩ := h
  exact hstream hs

/-- The sequencer goes on, into a frame or a stream only from within it. -/
theorem SameReads.goTo {seq' : Seq} (hf : inFrame seq' = true → inFrame seq = true := by decide)
    (hs : inStream seq' = true → inStream seq = true := by decide) : SameReads seq' s t :=
  ⟨h.host, h.bytes, fun h' => h.file (hf h'), fun h' => h.stream (hs h')⟩

theorem SameReads.idle : SameReads .idle s t := h.goTo nofun nofun

end

/-- The first `n` entries of two lists of the same length are the same. -/
def SamePrefix (n : Nat) (l m : List Nat) : Prop := m.length = l.length ∧ ∀ i < n, m[i]? = l[i]?

/-- Two loads stand at the same point: whatever the load has written is the same in both. -/
structure SameLoad (s t : State) : Prop where
  written : t = withStale s.seq s.phase s t
  lens : s.seq = .dynLens → SamePrefix s.lensN s.lens t.lens
  reads : SameReads s.seq s t

/-! ## Answers -/

/-- Two answers that go on with loads at the same point. -/
def Alike (o o' : Answer) : Prop := ∃ s t, o = .next s ∧ o' = .next t ∧ SameLoad s t

namespace Alike

theorem same {s t : State} (h : SameLoad s t) : Alike (.next s) (.next t) := ⟨s, t, rfl, rfl, h⟩

theorem next {s t : State} {seq : Seq} (hreads : SameReads seq s t) (hseq : s.seq = seq := by rfl)
    (hwritten : t = withStale seq s.phase s t := by rfl)
    (hlens : seq = .dynLens → SamePrefix s.lensN s.lens t.lens := by exact nofun) : Alike (.next s) (.next t) := by
  subst hseq
  exact same ⟨hwritten, hlens, hreads⟩

theorem raise {s t : State} {c : Cause} (hreads : SameReads .idle s t)
    (h : failEntry c t = withStale .idle .head (failEntry c s) (failEntry c t) := by rfl) :
    Alike (raise c s) (raise c t) :=
  next (s := failEntry c s) (t := failEntry c t) (seq := .idle) hreads rfl h

theorem ite {p : Prop} [Decidable p] {o₁ o₁' o₂ o₂' : Answer} (h₁ : p → Alike o₁ o₁') (h₂ : ¬ p → Alike o₂ o₂') :
    Alike (if p then o₁ else o₂) (if p then o₁' else o₂') := by
  split
  · exact h₁ ‹_›
  · exact h₂ ‹_›

theorem orRaise {α : Type} {r : Except Cause α} {s t : State} {k k' : α → Answer}
    (hraise : ∀ c, Alike (Machine.raise c s) (Machine.raise c t)) (h : ∀ v, Alike (k v) (k' v)) :
    Alike (orRaise r s k) (orRaise r t k') := by
  cases r with
  | ok v => exact h v
  | error c => exact hraise c

theorem of_eq {o o' u u' : Answer} (ho : o = u) (ho' : o' = u') (h : Alike u u') : Alike o o' := ho ▸ ho' ▸ h

end Alike

end Sys2Proof.Machine
end

section
/-! SUPPORT. The token's place in two loads at the same point: it is the same, and the same token stands there. -/

namespace Sys2Proof.Machine

open Sys2Proof.Safety

/-- The phase in which a place's tokens are read, where its sequencer state reads two (log 4). -/
def sitePhase : Site → Phase
  | .chunkType | .dictId | .blkType | .distSym => .tail
  | _ => .head

theorem nextSite_withStale (s d : State) : nextSite (withStale s.seq s.phase s d) = nextSite s := by
  unfold nextSite
  rw [show (withStale s.seq s.phase s d).seq = s.seq from rfl,
    show (withStale s.seq s.phase s d).phase = s.phase from rfl]
  cases s.seq <;> cases s.phase <;> rfl

theorem withStale_of_nextSite {s : State} {site : Site} (h : nextSite s = some site) (d : State) :
    withStale s.seq s.phase s d = withStale (siteSeq site) (sitePhase site) s d := by
  unfold nextSite at h
  split at h <;> try split at h
  all_goals cases h
  all_goals simp only [*]
  all_goals rfl

theorem phase_of_litSym {s : State} (h : nextSite s = some .litSym) : s.phase = .head := by
  unfold nextSite at h
  split at h <;> try split at h
  all_goals cases h
  assumption

/-! ## The bits of the place -/

theorem byteBits_congr {s t : State} {n : Nat} (h : ∀ a < n, inByte s a = inByte t a) (a : Nat) {stop : Nat}
    (hstop : stop ≤ n) : byteBits t a stop = byteBits s a stop := by
  have hbytes : inBytes t a (stop - a) = inBytes s a (stop - a) :=
    List.map_congr_left fun k hk => (h (a + k) (by have := List.mem_range.1 hk; omega)).symm
  rw [byteBits, hbytes, byteBits]

/-- The reader's bits are those of the bytes below BR_END. -/
theorem bitStream_congr {s t : State} {n : Nat} (h : ∀ a < n, inByte s a = inByte t a) (hend : s.brEnd ≤ n)
    (hrange : t.brStart = s.brStart ∧ t.brEnd = s.brEnd) (hpos : t.brPos = s.brPos) : bitStream t = bitStream s := by
  have havail : avail t = avail s := by rw [avail, avail, hrange.1, hrange.2, hpos]
  unfold bitStream
  rw [havail]
  refine List.map_congr_left fun k hk => ?_
  have hk : k < avail s := List.mem_range.1 hk
  unfold avail at hk
  rw [streamBit, streamBit, hrange.1, hpos, h _ (by omega)]

theorem chunkEnd_le_inLen {s t : State} (h : RegistersFit s) (hc : inChunk s.seq s.phase = true)
    (hreads : SameReads s.seq s t) : s.chunkEnd ≤ s.inLen.toNat := by
  have hf := inFrame_of_inChunk hc
  have hframe := h.curInFrame hf.1 hf.2
  have hchunk := h.curInChunk hc
  have hfile := hreads.file hf.1
  omega

/-- Every place lies in the file, and the file below IN_LEN. -/
theorem siteBits_withStale {s d : State} {site : Site} (h : RegistersFit s) (hsite : nextSite s = some site)
    (hreads : SameReads s.seq s d) :
    siteBits site (enterSite site (withStale (siteSeq site) (sitePhase site) s d)) =
      siteBits site (enterSite site s) := by
  have hseq := seq_of_nextSite hsite
  have hplace := nextSite_atPlace hsite
  have hbody (hb : inBody site = true) := chunkEnd_le_inLen h (hplace.body hb) hreads
  have hstream (hs : inStream (siteSeq site) = true) := hreads.stream (hseq ▸ hs)
  cases site with
  | fileHdr => exact byteBits_congr (s := s) hreads.bytes _ (min_le_left _ _)
  | frameHdr =>
    have hfile := hreads.file (by rw [hseq]; rfl)
    exact byteBits_congr (s := s) hreads.bytes _ ((min_le_left _ _).trans hfile)
  | chunkHdr =>
    have hf : inFrame s.seq = true := by rw [hseq]; rfl
    have hframe := h.curInFrame hf (by rw [hseq]; nofun)
    exact byteBits_congr (s := s) hreads.bytes _ ((min_le_left _ _).trans (hframe.2.trans (hreads.file hf)))
  | chunkType =>
    exact congrArg (bitsOf 16 s.ctype.toNat ++ ·) (byteBits_congr (s := s) hreads.bytes _ (hbody rfl))
  | palEntry | celType | tagRec | sliceKey => exact byteBits_congr (s := s) hreads.bytes _ (hbody rfl)
  | blkType => rfl
  | zlibHdr | dictId | trailer | blkHdr | storedHdr | dynHdr | clLen | clSym _ | litSym | distSym =>
    exact bitStream_congr (s := enterSite _ s) hreads.bytes (hstream rfl) ⟨rfl, rfl⟩ rfl
  | ctrl => rfl

/-- The same token stands at the same place of both loads. -/
theorem fetch_withStale {s d : State} {site : Site} (h : RegistersFit s) (hsite : nextSite s = some site)
    (hreads : SameReads s.seq s d) :
    fetch site (withStale (siteSeq site) (sitePhase site) s d) = fetch site s := by
  have htable : siteTable site (enterSite site (withStale (siteSeq site) (sitePhase site) s d)) =
      siteTable site (enterSite site s) := by cases site <;> rfl
  simp only [fetch, siteBits_withStale h hsite hreads, htable]

end Sys2Proof.Machine
end

section
/-! SUPPORT. The tokens of two loads at the same point: their meanings answer alike. -/

namespace Sys2Proof.Machine

open Sys2Proof.Safety

/-! ## Code lengths -/

theorem SamePrefix.set {n : Nat} {l m : List Nat} (h : SamePrefix n l m) (v : Nat) :
    SamePrefix (n + 1) (l.set n v) (m.set n v) := by
  obtain ⟨hlen, hget⟩ := h
  refine ⟨by simp [hlen], fun i hi => ?_⟩
  by_cases hin : i = n
  · subst hin
    simp [List.getElem?_set, hlen]
  · rw [List.getElem?_set_ne (Ne.symm hin), List.getElem?_set_ne (Ne.symm hin), hget i (by omega)]

theorem SamePrefix.setRun {n : Nat} {l m : List Nat} (h : SamePrefix n l m) (v r : Nat) :
    SamePrefix (n + r) (setRun v r n l) (setRun v r n m) := by
  induction r generalizing n l m with
  | zero => exact h
  | succ r ih =>
    rw [show n + (r + 1) = n + 1 + r by omega]
    exact ih (h.set v)

theorem SamePrefix.getD {n i : Nat} {l m : List Nat} (h : SamePrefix n l m) (hi : i < n) : m.getD i 0 = l.getD i 0 := by
  rw [List.getD_eq_getElem?_getD, List.getD_eq_getElem?_getD, h.2 i hi]

/-- A run of entries below `n` is the same in both lists. -/
theorem SamePrefix.take_drop {n i k : Nat} {l m : List Nat} (h : SamePrefix n l m) (hik : i + k ≤ n) :
    (m.drop i).take k = (l.drop i).take k := by
  refine List.ext_getElem? fun j => ?_
  by_cases hj : j < k
  · rw [List.getElem?_take_of_lt hj, List.getElem?_take_of_lt hj, List.getElem?_drop, List.getElem?_drop,
      h.2 (i + j) (by omega)]
  · rw [List.getElem?_take_eq_none (by omega), List.getElem?_take_eq_none (by omega)]

/-! ## Output -/

/-- A match copies the stream's own output (42_inflate.md R227, R228). -/
theorem matchCopy_withStale {dist : Nat} (n : Nat) (s d : State) :
    matchCopy dist n (withStale .symbols .tail s d) =
      withStale .symbols .tail (matchCopy dist n (redraw d.tileEpoch s)) d := by
  induction n generalizing s with
  | zero => rfl
  | succ n ih => exact ih (put (tileByte (redraw d.tileEpoch s) (s.outPos - dist)) s)

theorem readByte_withStale {s d : State} (hreads : SameReads .stored s d) :
    readByte (withStale .stored .head s d) = (readByte s).map fun r => (r.1, withStale .stored .head r.2 d) := by
  have hbits : bitStream (withStale .stored .head s d) = bitStream s :=
    bitStream_congr hreads.bytes (hreads.stream rfl) ⟨rfl, rfl⟩ rfl
  rw [readByte_eq, readByte_eq, hbits]
  show (if avail s < 8 then _ else _) = _
  split <;> rfl

theorem storedCopy_withStale {n : Nat} {s d : State} (hreads : SameReads .stored s d) :
    storedCopy n (withStale .stored .head s d) = (storedCopy n s).map (withStale .stored .head · d) := by
  induction n generalizing s with
  | zero => rfl
  | succ n ih =>
    simp only [storedCopy, readByte_withStale hreads]
    cases hread : readByte s with
    | error c => rfl
    | ok r =>
      obtain ⟨b, u⟩ := r
      obtain ⟨-, -, rfl⟩ := readByte_ok hread
      exact ih (s := put b (advanceBits 8 s)) hreads

/-! ## Moves shared by tokens and the sequencer -/

/-- Both loads leave the frame loop together. -/
theorem alike_frameLoop (f : Nat) {s t : State} (hwritten : t = withStale .done .head s t)
    (hreads : SameReads .frameHdr s t) : Alike (.next (frameLoop f s)) (.next (frameLoop f t)) := by
  obtain ⟨d, rfl⟩ : ∃ d, t = withStale .done .head s d := ⟨t, hwritten⟩
  have hidx : frameLoop f (withStale .done .head s d) =
      if f < s.nframes then { withStale .done .head s d with frameIdx := f, seq := .frameHdr, phase := .head }
      else afterFrames (withStale .done .head s d) := rfl
  rw [hidx, frameLoop]
  split
  · exact .next (seq := .frameHdr) hreads
  · cases hflip : s.flipL with
    | true => exact .next (seq := .flip) hreads.goTo (by simp [hflip])
    | false => exact .next (seq := .done) hreads.goTo (by simp [hflip])

/-- Both loads leave a block together. -/
theorem alike_endBlock {s t : State} (hwritten : t = withStale .stored s.phase s t)
    (hreads : SameReads .stored s t) : Alike (.next (endBlock s)) (.next (endBlock t)) := by
  obtain ⟨d, rfl⟩ : ∃ d, t = withStale .stored s.phase s d := ⟨t, hwritten⟩
  cases hfinal : s.bfinal with
  | true => exact .next (seq := .trailer) hreads.goTo (by simp [hfinal])
  | false => exact .next (seq := .blkHdr) hreads.goTo (by simp [hfinal])

theorem alike_putRun {s d : State} {v r : Nat} (hseq : s.seq = .dynLens) (hlens : SamePrefix s.lensN s.lens d.lens)
    (hreads : SameReads .dynLens s d) : Alike (putRun v r s) (putRun v r (withStale .dynLens .head s d)) :=
  .ite (fun _ => .raise hreads.idle) fun _ => .next hreads hseq rfl fun _ => hlens.setRun v r

theorem alike_finishMatch {s d : State} (htile : TileWritten s) {sym : Nat} (hsym : sym < 30) (extra : Nat)
    (hreads : SameReads .symbols s d) :
    Alike (finishMatch sym extra s) (finishMatch sym extra (withStale .symbols .tail s d)) := by
  refine .ite (fun _ => .raise hreads.idle) fun hdist => .ite (fun _ => .raise hreads.idle) fun _ => ?_
  have hcopy : matchCopy (distanceOperand sym extra) s.matchLen (withStale .symbols .tail s d) =
      withStale .symbols .tail (matchCopy (distanceOperand sym extra) s.matchLen s) d := by
    rw [matchCopy_withStale, matchCopy_redraw htile _ (distanceOperand_pos hsym extra) (not_lt.1 hdist)]
    rfl
  have hreads' : SameReads .symbols (matchCopy (distanceOperand sym extra) s.matchLen s) d := by
    rw [matchCopy_frame]
    exact hreads
  show Alike _ (.next { matchCopy _ s.matchLen (withStale .symbols .tail s d) with seq := .symbols, phase := .head })
  rw [hcopy]
  exact .next (seq := .symbols) hreads'

/-! ## Tokens -/

/-- The header bounds the file by IN_LEN (44_container.md R335). -/
theorem alike_execFileHdr {s d : State} (size : Word) (magic nframes width height depth : Half) (tkey : Byte)
    (hreads : SameReads .fileHdr s d) :
    Alike (execFileHdr size magic nframes width height depth tkey s)
      (execFileHdr size magic nframes width height depth tkey (withStale .fileHdr .head s d)) := by
  have hidle : SameReads .idle (headerFields size nframes width height depth tkey s) d :=
    ⟨hreads.host, hreads.bytes, nofun, nofun⟩
  refine .ite (fun _ => .raise hidle) fun _ => .ite (fun _ => .raise hidle) fun hsize => ?_
  simp only [headerFields_depth]
  cases bytesPerPixel depth.toNat with
  | none => exact .raise hidle
  | some bpp =>
    have hfile : size.toNat ≤ s.inLen.toNat := not_lt.1 fun hlt => hsize (.inr hlt)
    exact .ite (fun _ => .raise hidle) fun _ =>
      alike_frameLoop 0 rfl ⟨hreads.host, hreads.bytes, fun _ => hfile, nofun⟩

theorem alike_execStoredHdr {s d : State} (len nlen : Half) (hreads : SameReads .stored s d) :
    Alike (execStoredHdr len nlen s) (execStoredHdr len nlen (withStale .stored .head s d)) := by
  refine .ite (fun _ => .raise hreads.idle) fun _ => .ite (fun _ => .raise hreads.idle) fun _ =>
    .ite (fun _ => .raise hreads.idle) fun _ => ?_
  rw [storedCopy_withStale hreads]
  cases hcopy : storedCopy len.toNat s with
  | error c => exact .raise hreads.idle
  | ok t =>
    have hreads' : SameReads .stored t d := by
      rw [(storedCopy_frame hcopy).2]
      exact hreads
    exact alike_endBlock rfl hreads'

section
variable {i : Instr} {s d : State} (n : Nat)

theorem alike_exec_frameHdr (hsite : siteOf i = .frameHdr) (hreads : SameReads .frameHdr s d) :
    Alike (exec i (pastToken .frameHdr n s)) (exec i (pastToken .frameHdr n (withStale .frameHdr .head s d))) := by
  cases i with
  | frameHdr =>
    exact .ite (fun _ => .raise hreads.idle) fun _ => .ite (fun _ => .raise hreads.idle) fun _ =>
      .next (seq := .chunkHdr) hreads.goTo
  | _ => cases hsite

theorem alike_exec_chunkHdr (hsite : siteOf i = .chunkHdr) (hreads : SameReads .chunkHdr s d) :
    Alike (exec i (pastToken .chunkHdr n s)) (exec i (pastToken .chunkHdr n (withStale .chunkHdr .head s d))) := by
  cases i with
  | chunkHdr => exact .ite (fun _ => .raise hreads.idle) fun _ => .next (seq := .chunkHdr) hreads
  | _ => cases hsite

theorem alike_exec_chunkType (hsite : siteOf i = .chunkType) (hreads : SameReads .chunkHdr s d) :
    Alike (exec i (pastToken .chunkType n s)) (exec i (pastToken .chunkType n (withStale .chunkHdr .tail s d))) := by
  cases i with
  | chunkPalette => exact .ite (fun _ => .raise hreads.idle) fun _ => .next (seq := .palette) hreads.goTo
  | chunkCel => exact .ite (fun _ => .raise hreads.idle) fun _ => .next (seq := .cel) hreads.goTo
  | chunkTags => exact .next (seq := .tags) hreads.goTo
  | chunkSlice =>
    exact .ite (fun _ => .raise hreads.idle) fun _ => .ite (fun _ => .raise hreads.idle) fun _ =>
      .next (seq := .slice) hreads.goTo
  | chunkOther => exact .next (seq := .skip) hreads.goTo
  | _ => cases hsite
theorem alike_exec_palEntry (hsite : siteOf i = .palEntry) (hseq : s.seq = .palette) (hreads : SameReads .palette s d) :
    Alike (exec i (pastToken .palEntry n s)) (exec i (pastToken .palEntry n (withStale .palette .head s d))) := by
  cases i with
  | palEntry => exact .next hreads hseq
  | palEntryNamed => exact .raise hreads.idle
  | _ => cases hsite

/-- A stream lies in its chunk, below IN_LEN (44_container.md R365). -/
theorem alike_exec_celType (hsite : siteOf i = .celType) (hend : s.chunkEnd ≤ s.inLen.toNat)
    (hreads : SameReads .cel s d) :
    Alike (exec i (pastToken .celType n s)) (exec i (pastToken .celType n (withStale .cel .head s d))) := by
  cases i with
  | celCompressed =>
    exact .ite (fun _ => .raise hreads.idle) fun _ => .ite (fun _ => .raise hreads.idle) fun _ =>
      .next (seq := .zHdr) ⟨hreads.host, hreads.bytes, fun _ => hreads.file rfl, fun _ => hend⟩
  | celTypeOther => exact .raise hreads.idle
  | _ => cases hsite

theorem alike_exec_tagRec (hsite : siteOf i = .tagRec) (hseq : s.seq = .tags) (hreads : SameReads .tags s d) :
    Alike (exec i (pastToken .tagRec n s)) (exec i (pastToken .tagRec n (withStale .tags .head s d))) := by
  cases i with
  | tagRec => exact .next hreads hseq
  | _ => cases hsite

theorem alike_exec_sliceKey (hsite : siteOf i = .sliceKey) (hreads : SameReads .slice s d) :
    Alike (exec i (pastToken .sliceKey n s)) (exec i (pastToken .sliceKey n (withStale .slice .head s d))) := by
  cases i with
  | sliceKey => exact .next (seq := .chunkHdr) hreads.goTo
  | _ => cases hsite

theorem alike_exec_zlibHdr (hsite : siteOf i = .zlibHdr) (hreads : SameReads .zHdr s d) :
    Alike (exec i (pastToken .zlibHdr n s)) (exec i (pastToken .zlibHdr n (withStale .zHdr .head s d))) := by
  cases i with
  | zlibHdr => exact .ite (fun _ => .next (seq := .zHdr) hreads) fun _ => .next (seq := .blkHdr) hreads.goTo
  | _ => cases hsite

theorem alike_exec_dictId (hsite : siteOf i = .dictId) (hreads : SameReads .zHdr s d) :
    Alike (exec i (pastToken .dictId n s)) (exec i (pastToken .dictId n (withStale .zHdr .tail s d))) := by
  cases i with
  | zlibDictid => exact .next (seq := .blkHdr) hreads.goTo
  | _ => cases hsite

theorem alike_exec_trailer (hsite : siteOf i = .trailer) (hreads : SameReads .trailer s d) :
    Alike (exec i (pastToken .trailer n s)) (exec i (pastToken .trailer n (withStale .trailer .head s d))) := by
  cases i with
  | adler32Trailer =>
    exact .ite (fun _ => .raise hreads.idle) fun _ => .ite (fun _ => .raise hreads.idle) fun _ =>
      .next (seq := .blit) hreads.goTo
  | _ => cases hsite

theorem alike_exec_blkHdr (hsite : siteOf i = .blkHdr) (hreads : SameReads .blkHdr s d) :
    Alike (exec i (pastToken .blkHdr n s)) (exec i (pastToken .blkHdr n (withStale .blkHdr .head s d))) := by
  cases i with
  | blkHdr => exact .next (seq := .blkHdr) hreads
  | _ => cases hsite

theorem alike_exec_blkType (hsite : siteOf i = .blkType) (hreads : SameReads .blkHdr s d) :
    Alike (exec i (pastToken .blkType n s)) (exec i (pastToken .blkType n (withStale .blkHdr .tail s d))) := by
  cases i with
  | blkStored => exact .next (seq := .stored) hreads.goTo
  | blkFixed => exact .next (seq := .fixedSetup) hreads.goTo
  | blkDynamic => exact .next (seq := .dynHdr) hreads.goTo
  | blkReserved => exact .raise hreads.idle
  | _ => cases hsite

theorem alike_exec_storedHdr (hsite : siteOf i = .storedHdr) (hreads : SameReads .stored s d) :
    Alike (exec i (pastToken .storedHdr n s)) (exec i (pastToken .storedHdr n (withStale .stored .head s d))) := by
  cases i with
  | storedHdr => exact alike_execStoredHdr (s := pastToken .storedHdr n s) (d := d) _ _ hreads
  | _ => cases hsite

theorem alike_exec_dynHdr (hsite : siteOf i = .dynHdr) (hreads : SameReads .dynHdr s d) :
    Alike (exec i (pastToken .dynHdr n s)) (exec i (pastToken .dynHdr n (withStale .dynHdr .head s d))) := by
  cases i with
  | dynHdr => exact .next (seq := .dynCl) hreads.goTo
  | _ => cases hsite

theorem alike_exec_clLen (hsite : siteOf i = .clLen) (hseq : s.seq = .dynCl) (hreads : SameReads .dynCl s d) :
    Alike (exec i (pastToken .clLen n s)) (exec i (pastToken .clLen n (withStale .dynCl .head s d))) := by
  cases i with
  | clLen => exact .next hreads hseq
  | _ => cases hsite

/-- A code-length symbol writes one length, a run of zeros, or a run of the length before it. -/
theorem exec_clSym (hsite : siteOf i = .clSym false) :
    (∃ v, ∀ s, exec i s = putLength v s) ∨ (∃ r, ∀ s, exec i s = putRun 0 r s) ∨ ∃ extra, i = .clRep16 extra := by
  cases i with
  | clLit0 | clLit1 | clLit2 | clLit3 | clLit4 | clLit5 | clLit6 | clLit7 | clLit8 | clLit9 | clLit10
  | clLit11 | clLit12 | clLit13 | clLit14 | clLit15 => exact .inl ⟨_, fun _ => rfl⟩
  | clZero17 | clZero18 => exact .inr (.inl ⟨_, fun _ => rfl⟩)
  | clRep16 extra => exact .inr (.inr ⟨extra, rfl⟩)
  | _ => cases hsite

/-- A code-length symbol reads and writes LENS up to n alone (42_inflate.md R217 to R220). -/
theorem alike_exec_clSym (hsite : siteOf i = .clSym false) (hseq : s.seq = .dynLens)
    (hlens : SamePrefix s.lensN s.lens d.lens) (hreads : SameReads .dynLens s d) :
    Alike (exec i (pastToken (.clSym false) n s))
      (exec i (pastToken (.clSym false) n (withStale .dynLens .head s d))) := by
  rcases exec_clSym hsite with ⟨v, he⟩ | ⟨r, he⟩ | ⟨extra, rfl⟩
  · exact .of_eq (he _) (he _) (.next hreads hseq rfl fun _ => hlens.set v)
  · exact .of_eq (he _) (he _) (alike_putRun (s := advanceBits n s) hseq hlens hreads)
  · refine .ite (fun _ => .raise hreads.idle) fun hn => ?_
    have hlast : d.lens.getD (s.lensN - 1) 0 = s.lens.getD (s.lensN - 1) 0 :=
      hlens.getD (by have hn : ¬ s.lensN = 0 := hn; omega)
    show Alike _ (putRun (d.lens.getD (s.lensN - 1) 0) _ _)
    rw [hlast]
    exact alike_putRun (s := advanceBits n s) hseq hlens hreads

/-- A literal/length symbol is a literal, the end of the block, a match length, or invalid. -/
theorem exec_litSym (hsite : siteOf i = .litSym) :
    (∃ b, i = .lit b) ∨ i = .eob ∨ (∃ sym extra, ∀ s, exec i s = beginMatch sym extra s) ∨
      ∀ s, exec i s = raise .badLengthSymbol s := by
  cases i with
  | lit b => exact .inl ⟨b, rfl⟩
  | eob => exact .inr (.inl rfl)
  | len257 | len258 | len259 | len260 | len261 | len262 | len263 | len264 | len265 _ | len266 _ | len267 _
  | len268 _ | len269 _ | len270 _ | len271 _ | len272 _ | len273 _ | len274 _ | len275 _ | len276 _
  | len277 _ | len278 _ | len279 _ | len280 _ | len281 _ | len282 _ | len283 _ | len284 _ | len285 =>
    exact .inr (.inr (.inl ⟨_, _, fun _ => rfl⟩))
  | lenInvalid _ => exact .inr (.inr (.inr fun _ => rfl))
  | _ => cases hsite

theorem alike_exec_litSym (hsite : siteOf i = .litSym) (hseq : s.seq = .symbols) (hphase : s.phase = .head)
    (hreads : SameReads .symbols s d) :
    Alike (exec i (pastToken .litSym n s)) (exec i (pastToken .litSym n (withStale .symbols .head s d))) := by
  rcases exec_litSym hsite with ⟨b, rfl⟩ | rfl | ⟨sym, extra, he⟩ | he
  · refine .ite (fun _ => .raise hreads.idle) fun _ => .next hreads hseq ?_
    show _ = withStale .symbols s.phase _ _
    rw [hphase]
    rfl
  · exact alike_endBlock (s := advanceBits n s) rfl hreads.goTo
  · exact .of_eq (he _) (he _) (.next (seq := .symbols) hreads)
  · exact .of_eq (he _) (he _) (.raise hreads.idle)

theorem alike_exec_distSym (hsite : siteOf i = .distSym) (htile : TileWritten s) (hreads : SameReads .symbols s d) :
    Alike (exec i (pastToken .distSym n s)) (exec i (pastToken .distSym n (withStale .symbols .tail s d))) := by
  rcases exec_distSym hsite with ⟨sym, extra, hsym, he⟩ | he
  · exact .of_eq (he _) (he _) (alike_finishMatch (s := advanceBits n s) htile hsym extra hreads)
  · exact .of_eq (he _) (he _) (.raise hreads.idle)

end

end Sys2Proof.Machine
end

section
/-! A load's result as a function of its input (45_atlas.md R387): two loads at the same point step alike, and O58. -/

namespace Sys2Proof.Machine

open Sys2Proof.Safety

/-! ## The engine -/

/-- The token at a place of both loads answers alike. -/
theorem alike_exec {i : Instr} {site : Site} {s d : State} (n : Nat) (hfit : RegistersFit s) (htile : TileWritten s)
    (hsite : nextSite s = some site) (hi : siteOf i = tokenSite site) (hreads : SameReads s.seq s d)
    (hlens : s.seq = .dynLens → SamePrefix s.lensN s.lens d.lens) :
    Alike (exec i (pastToken site n s))
      (exec i (pastToken site n (withStale (siteSeq site) (sitePhase site) s d))) := by
  have hseq := seq_of_nextSite hsite
  have hplace := nextSite_atPlace hsite
  have hend (hb : inBody site = true) := chunkEnd_le_inLen hfit (hplace.body hb) hreads
  rw [hseq] at hreads hlens
  cases site with
  | fileHdr =>
    cases i with
    | fileHdr => exact alike_execFileHdr _ _ _ _ _ _ _ hreads
    | _ => cases hi
  | frameHdr => exact alike_exec_frameHdr n hi hreads
  | chunkHdr => exact alike_exec_chunkHdr n hi hreads
  | chunkType => exact alike_exec_chunkType n hi hreads
  | palEntry => exact alike_exec_palEntry n hi hseq hreads
  | celType => exact alike_exec_celType n hi (hend rfl) hreads
  | tagRec => exact alike_exec_tagRec n hi hseq hreads
  | sliceKey => exact alike_exec_sliceKey n hi hreads
  | zlibHdr => exact alike_exec_zlibHdr n hi hreads
  | dictId => exact alike_exec_dictId n hi hreads
  | trailer => exact alike_exec_trailer n hi hreads
  | blkHdr => exact alike_exec_blkHdr n hi hreads
  | blkType => exact alike_exec_blkType n hi hreads
  | storedHdr => exact alike_exec_storedHdr n hi hreads
  | dynHdr => exact alike_exec_dynHdr n hi hreads
  | clLen => exact alike_exec_clLen n hi hseq hreads
  | clSym first => exact alike_exec_clSym n hi hseq (hlens rfl) hreads
  | litSym => exact alike_exec_litSym n hi hseq (phase_of_litSym hsite) hreads
  | distSym => exact alike_exec_distSym n hi htile hreads
  | ctrl => exact absurd rfl hplace.engine

/-- What is read from fixed fields alone is refused only as cut off. -/
def OnlyShort (r : Decoded) : Prop := ∀ e, r = .error e → e = .short

theorem onlyShort_ok (r : Instr × Bits) : OnlyShort (.ok r) := nofun

theorem onlyShort_field {n : Nat} {bs : Bits} {k : Nat → Bits → Decoded} (hk : ∀ v rest, OnlyShort (k v rest)) :
    OnlyShort (field n bs k) := by
  intro e h
  rcases field_error h with ⟨-, he⟩ | ⟨-, he⟩
  · exact he
  · exact hk _ _ e he

theorem onlyShort_skip {n : Nat} {bs : Bits} {k : Bits → Decoded} (hk : ∀ rest, OnlyShort (k rest)) :
    OnlyShort (skip n bs k) := by
  intro e h
  rcases skip_error h with ⟨-, he⟩ | ⟨-, he⟩
  · exact he
  · exact hk _ e he

/-- The headers of the file, a frame, a chunk and a stored block, and the trailer: the places that are entered by a change
of the state or before CHUNK_START is known. -/
def isHeader : Site → Bool
  | .fileHdr | .frameHdr | .chunkHdr | .storedHdr | .trailer => true
  | _ => false

theorem onlyShort_header {site : Site} (h : isHeader site = true) (T : Table) (bs : Bits) :
    OnlyShort (decode site T bs) := by
  cases site with
  | fileHdr =>
    exact onlyShort_field fun _ _ => onlyShort_field fun _ _ => onlyShort_field fun _ _ => onlyShort_field fun _ _ =>
      onlyShort_field fun _ _ => onlyShort_field fun _ _ => onlyShort_skip fun _ => onlyShort_field fun _ _ =>
      onlyShort_skip fun _ => onlyShort_ok _
  | frameHdr =>
    exact onlyShort_field fun _ _ => onlyShort_field fun _ _ => onlyShort_field fun _ _ => onlyShort_field fun _ _ =>
      onlyShort_skip fun _ => onlyShort_field fun _ _ => onlyShort_ok _
  | chunkHdr | storedHdr => exact onlyShort_field fun _ _ => onlyShort_field fun _ _ => onlyShort_ok _
  | trailer =>
    exact onlyShort_field fun _ _ => onlyShort_field fun _ _ => onlyShort_field fun _ _ => onlyShort_field fun _ _ =>
      onlyShort_ok _
  | _ => cases h

/-- The rejections of a place by both loads answer alike. -/
theorem alike_rejected {s t : State} {site : Site} {r : Reject} (h : SameLoad s t) (hsite : nextSite s = some site)
    (hheader : isHeader site = true → r = .short) (hz : r = .noHeader → site = .zlibHdr) :
    Alike (rejected site r (enterSite site s)) (rejected site r (enterSite site t)) := by
  have hengine := (nextSite_atPlace hsite).engine
  have hreads := h.reads
  rw [seq_of_nextSite hsite] at hreads
  obtain ⟨d, rfl⟩ : ∃ d, t = withStale (siteSeq site) (sitePhase site) s d :=
    ⟨t, withStale_of_nextSite hsite t ▸ h.written⟩
  cases r with
  | short =>
    cases site with
    | ctrl => exact absurd rfl hengine
    | _ => exact .raise hreads.idle
  | badSymbol =>
    cases site with
    | fileHdr | frameHdr | chunkHdr | storedHdr | trailer => cases hheader rfl
    | ctrl => exact absurd rfl hengine
    | _ => exact .raise hreads.idle
  | noHeader =>
    cases hz rfl
    exact .next (seq := .blkHdr) hreads.goTo
  | noStart =>
    cases site with
    | fileHdr | frameHdr | chunkHdr | storedHdr | trailer => cases hheader rfl
    | _ => exact .same h

theorem blitRows_withStale (s d : State) (rows : Nat) :
    blitRows (withStale .blit s.phase s d) rows = blitRows (redraw d.tileEpoch s) rows := by
  induction rows with
  | zero => rfl
  | succ row ih => rw [blitRows, ih]; rfl

theorem buildBlockTables_congr {s t : State} (hlit : t.hlit = s.hlit) (hdist : t.hdist = s.hdist)
    (h : SamePrefix s.lensN s.lens t.lens) (hend : s.hlit + s.hdist ≤ s.lensN) :
    buildBlockTables t = buildBlockTables s := by
  have hlitLens : t.lens.take s.hlit = s.lens.take s.hlit := h.take_drop (i := 0) (by omega)
  have hdistLens := h.take_drop hend
  rw [buildBlockTables, buildBlockTables, hlit, hdist, hlitLens, hdistLens]

/-- The sequencer's moves of both loads answer alike. -/
theorem alike_sequence {s t : State} (hform : AtlasForm s) (hlength : t.lens.length = s.lens.length) (h : SameLoad s t)
    (hnone : nextSite s = none) : Alike (sequence s) (sequence t) := by
  obtain ⟨seq, hseq⟩ : ∃ seq, s.seq = seq := ⟨_, rfl⟩
  obtain ⟨d, rfl⟩ : ∃ d, t = withStale seq s.phase s d := ⟨t, hseq ▸ h.written⟩
  have hreads : SameReads seq s d := hseq ▸ h.reads
  unfold sequence
  rw [hseq, show (withStale seq s.phase s d).seq = seq from hseq]
  cases seq with
  | chunkHdr => exact .next (seq := .frameEndCheck) hreads.goTo
  | palette | tags | skip => exact .next (seq := .chunkHdr) hreads.goTo
  | frameEndCheck => exact .ite (fun _ => .raise hreads.idle) fun _ => alike_frameLoop _ rfl hreads.goTo
  | fixedSetup =>
    exact .orRaise (fun _ => .raise hreads.idle) fun _ => .orRaise (fun _ => .raise hreads.idle) fun _ =>
      .next (seq := .symbols) hreads.goTo
  | dynCl =>
    exact .orRaise (fun _ => .raise hreads.idle) fun _ =>
      .next (seq := .dynLens) hreads.goTo rfl rfl fun _ => ⟨hlength, nofun⟩
  | dynLens =>
    have hend : s.hlit + s.hdist ≤ s.lensN := by
      simpa [nextSite, hseq] using hnone
    have htables : buildBlockTables (withStale .dynLens s.phase s d) = buildBlockTables s :=
      buildBlockTables_congr rfl rfl (h.lens hseq) hend
    simp only [seqBlockTables, htables]
    exact .orRaise (fun _ => .raise hreads.idle) fun _ => .next (seq := .symbols) hreads.goTo
  | blit =>
    have hblit : blitRows (withStale .blit s.phase s d) s.celH = blitRows s s.celH := by
      rw [blitRows_withStale, blitRows_redraw hform hseq _ le_rfl]
    show Alike _ (.next (endChunk { withStale .blit s.phase s d with
      atlas := blitRows (withStale .blit s.phase s d) s.celH }))
    rw [hblit]
    exact .next (seq := .chunkHdr) hreads.goTo
  | flip => exact .next (seq := .done) hreads.goTo
  | done => exact .next (seq := .idle) hreads.goTo
  | error => exact .next (seq := .idle) hreads.goTo
  | idle | fileHdr | frameHdr | cel | slice | zHdr | blkHdr | stored | dynHdr | symbols | trailer => exact .same h

/-- Two loads at the same point step alike. -/
theorem alike_engineStep {s t : State} (hfit : RegistersFit s) (hfit' : RegistersFit t) (hform : AtlasForm s)
    (h : SameLoad s t) : Alike (engineStep s) (engineStep t) := by
  have hnext : nextSite t = nextSite s := by rw [h.written]; exact nextSite_withStale s t
  cases hsite : nextSite s with
  | none =>
    rw [engineStep_sequence hsite, engineStep_sequence (hnext.trans hsite)]
    exact alike_sequence hform (hfit'.lens.1.trans hfit.lens.1.symm) h hsite
  | some site =>
    have hwritten : t = withStale (siteSeq site) (sitePhase site) s t := by
      rw [← withStale_of_nextSite hsite]; exact h.written
    have hfetch : fetch site t = fetch site s := by
      rw [hwritten]; exact fetch_withStale hfit hsite h.reads
    cases hs : fetch site s with
    | ok p =>
      obtain ⟨i, n⟩ := p
      obtain ⟨rest, hd, -⟩ := fetch_ok hs
      rw [engineStep_token hsite hs, engineStep_token (hnext.trans hsite) (hfetch.trans hs), hwritten]
      exact alike_exec n hfit hform.tileWritten hsite (siteOf_of_decode hd) h.reads h.lens
    | error r =>
      have hd : decode site (siteTable site (enterSite site s)) (siteBits site (enterSite site s)) = .error r := by
        simp only [fetch] at hs
        split at hs
        · cases hs; assumption
        · cases hs
      rw [engineStep_rejected hsite hs, engineStep_rejected (hnext.trans hsite) (hfetch.trans hs)]
      exact alike_rejected h hsite (fun hh => onlyShort_header hh _ _ r hd) fun hr => decode_noHeader (hr ▸ hd)

/-! ## Whole loads -/

theorem sameLoad_startLoad {s t : State} (hinput : SameInput s t) (hs : s.host = []) (ht : t.host = []) :
    SameLoad (startLoad s) (startLoad t) := by
  obtain ⟨hcfg, hlen, hflip, hbytes⟩ := hinput
  refine ⟨?_, nofun, hs, hbytes, nofun, nofun⟩
  calc startLoad t
      = { startLoad t with cfg := t.cfg, inLen := t.inLen, host := t.host, flipL := ctrlFlip t.ctrl } := rfl
    _ = { startLoad t with cfg := s.cfg, inLen := s.inLen, host := s.host, flipL := ctrlFlip s.ctrl } := by
      rw [hcfg, hlen, ht, hs, hflip]
    _ = withStale .fileHdr .head (startLoad s) (startLoad t) := rfl

theorem registersFit_startLoad {s : State} (h : RegistersFit s) : RegistersFit (startLoad s) :=
  { registersFit_leave h (seq := .fileHdr) rfl .head with errOffset := Nat.two_pow_pos 32 }

/-- The host reads the same from two loads at the same point. -/
theorem SameLoad.observe_eq {s t : State} (h : SameLoad s t) : observe t = observe s := by
  rw [h.written]
  rfl

theorem run_succ {s t : State} (k : Nat) (h : step s = .next t) :
    Sys2Proof.core.run (k + 1) s = Sys2Proof.core.run k t := by
  have hstep : Sys2Proof.core.step s = .next t := h
  simp only [Host.Core.run, hstep]

/-- Two loads at the same point stay there for any number of steps. -/
theorem run_alike (k : Nat) {s t : State} (hfit : RegistersFit s) (hfit' : RegistersFit t) (hform : AtlasForm s)
    (h : SameLoad s t) : Alike (Sys2Proof.core.run k s) (Sys2Proof.core.run k t) := by
  induction k generalizing s t with
  | zero => exact .same h
  | succ k ih =>
    obtain ⟨u, v, hu, hv, huv⟩ := alike_engineStep hfit hfit' hform h
    have hs : step s = .next u := (step_engine h.reads.host).trans hu
    have ht : step t = .next v := by rw [step_engine (by rw [h.written]; exact h.reads.host), hv]
    exact .of_eq (run_succ k hs) (run_succ k ht) (ih (registersFitKept s u hfit hs).1 (registersFitKept t v hfit' ht).1
      ((ensures_atlasForm_engineStep hform).holds u hu) huv)

/-- The reset state with the input of `s`: nothing in it comes from an earlier load. -/
def freshInput (s : State) : State :=
  { State.reset with cfg := s.cfg, ctrl := s.ctrl, inLen := s.inLen, inp := s.inp, inEpoch := s.inEpoch }

/-- A load from any state shows the host what a load of the same input from reset does, at every step. -/
theorem run_startLoad_freshInput (k : Nat) {s t : State} (hinput : SameInput s t) (hfit : RegistersFit t)
    (hhost : t.host = []) : Alike (Sys2Proof.core.run k (startLoad (freshInput s)))
      (Sys2Proof.core.run k (startLoad t)) := by
  have hfresh : RegistersFit (freshInput s) := { registersFit_resetBlock s with }
  have hform : AtlasForm (startLoad (freshInput s)) := atlasForm_startLoad (atlasForm_resetBlock s).tileWritten
  exact run_alike k (registersFit_startLoad hfresh) (registersFit_startLoad hfit) hform
    (sameLoad_startLoad hinput rfl hhost)

/-- Settles O58: both loads are compared, step by step, with a load of the same input from reset; the registers in which two
loads at the same point differ are written before they are read. -/
theorem loadIsFunctionOfInput : Obligations.LoadIsFunctionOfInput := by
  unfold Obligations.LoadIsFunctionOfInput
  intro s t k _ _ hfit hfit' _ _ hhost hhost' hinput
  obtain ⟨u, s', hu, hs, hus⟩ :=
    run_startLoad_freshInput k (s := s) (t := s) ⟨rfl, rfl, rfl, fun _ _ => rfl⟩ hfit hhost
  obtain ⟨v, t', hv, ht, hvt⟩ := run_startLoad_freshInput k hinput hfit' hhost'
  cases hu.symm.trans hv
  exact ⟨s', t', hs, ht, hus.observe_eq.trans hvt.observe_eq.symm⟩

end Sys2Proof.Machine
end

section
/-! SUPPORT. The atlas byte by byte: what the placement and the flip leave at each address (45_atlas.md R382, R384). -/

namespace Sys2Proof.Machine

open Sys2Proof.Safety

/-! ## Bytes of a memory -/

/-- The byte at an address of ATLAS or PAL. -/
def Memory.byteAt (m : Memory) (a : Nat) : Byte := (m.find a).getD 0

theorem atlasByte_eq (s : State) (a : Nat) : atlasByte s a = s.atlas.byteAt a := rfl

theorem Memory.byteAt_write_same {m : Memory} (hm : Memory.wf (some 0) m = true) (a : Nat) (b : Byte) :
    (Memory.write (some 0) m a b).byteAt a = b := by
  rw [Memory.byteAt, Memory.find_write_same (lo := none) hm]
  split
  · rename_i hb
    exact Option.some.inj hb
  · rfl

theorem Memory.byteAt_write_other {m : Memory} {a a' : Nat} (h : a' ≠ a) (b : Byte) :
    (Memory.write (some 0) m a b).byteAt a' = m.byteAt a' := by
  rw [Memory.byteAt, Memory.find_write_other h, Memory.byteAt]

theorem Memory.byteAt_fill_inside {m : Memory} (hm : Memory.wf (some 0) m = true) {dst k n : Nat} {src : Nat → Byte}
    (hk : k < n) : (Memory.fill (some 0) m dst src n).byteAt (dst + k) = src k := by
  induction n with
  | zero => omega
  | succ n ih =>
    by_cases heq : k = n
    · subst heq
      exact Memory.byteAt_write_same (Memory.wf_fill _ hm) _ _
    · exact (Memory.byteAt_write_other (by omega) _).trans (ih (by omega))

theorem Memory.byteAt_fill_other {m : Memory} {dst a n : Nat} {src : Nat → Byte} (h : a < dst ∨ dst + n ≤ a) :
    (Memory.fill (some 0) m dst src n).byteAt a = m.byteAt a := by
  rw [Memory.byteAt, Memory.find_fill_other n h, Memory.byteAt]

/-- No cell of a canonical memory lists what an unlisted address reads as. -/
theorem Memory.find_ne_default {d : Option Byte} {lo : Option Nat} {m : Memory} (hm : Memory.wfAbove d lo m = true)
    {a : Nat} {b : Byte} (h : m.find a = some b) : d ≠ some b := by
  induction m generalizing lo with
  | nil => cases h
  | cons c m ih =>
    obtain ⟨-, hc, hrest⟩ := Memory.wfAbove_cons.1 hm
    rw [Memory.find] at h
    split at h
    · cases h
      exact hc
    · exact ih hrest h

/-- A canonical memory lists exactly the bytes other than 0. -/
theorem Memory.find_eq_byteAt {m : Memory} (hm : Memory.wf (some 0) m = true) (a : Nat) :
    m.find a = if m.byteAt a = 0 then none else some (m.byteAt a) := by
  cases hfind : m.find a with
  | none => simp [Memory.byteAt, hfind]
  | some b =>
    have hb : b ≠ 0 := fun h0 => Memory.find_ne_default hm hfind (congrArg some h0.symm)
    rw [Memory.byteAt, hfind, Option.getD_some, if_neg hb]

/-- Two canonical memories with the same bytes are equal. -/
theorem Memory.ext_byteAt {m m' : Memory} (hm : Memory.wf (some 0) m = true) (hm' : Memory.wf (some 0) m' = true)
    (h : ∀ a, m.byteAt a = m'.byteAt a) : m = m' :=
  Memory.wfAbove_ext hm hm' fun a => by rw [Memory.find_eq_byteAt hm, Memory.find_eq_byteAt hm', h a]

/-! ## The flip -/

/-- Outside the two runs a swap changes nothing. -/
theorem swapBytes_byteAt_other {a b n x : Nat} (m : Memory) (ha : x < a ∨ a + n ≤ x) (hb : x < b ∨ b + n ≤ x) :
    (swapBytes a b n m).byteAt x = m.byteAt x := by
  induction n with
  | zero => rfl
  | succ n ih =>
    simp only [swapBytes]
    rw [Memory.byteAt_write_other (by omega), Memory.byteAt_write_other (by omega), ih (by omega) (by omega)]

/-- A swap of two runs apart from each other exchanges their bytes. -/
theorem swapBytes_byteAt {a b n k : Nat} {m : Memory} (hm : Memory.wf (some 0) m = true) (hapart : a + n ≤ b)
    (hk : k < n) :
    (swapBytes a b n m).byteAt (a + k) = m.byteAt (b + k) ∧ (swapBytes a b n m).byteAt (b + k) = m.byteAt (a + k) := by
  induction n with
  | zero => omega
  | succ n ih =>
    have hrest := swapBytes_wf a b n hm
    have hread {x : Nat} (ha : x < a ∨ a + n ≤ x) (hb : x < b ∨ b + n ≤ x) := swapBytes_byteAt_other m ha hb
    simp only [swapBytes]
    by_cases heq : k = n
    · subst heq
      rw [Memory.byteAt_write_other (by omega), Memory.byteAt_write_same hrest,
        Memory.byteAt_write_same (Memory.wf_write hrest)]
      exact ⟨hread (by omega) (by omega), hread (by omega) (by omega)⟩
    · rw [Memory.byteAt_write_other (a' := a + k) (by omega), Memory.byteAt_write_other (a' := a + k) (by omega),
        Memory.byteAt_write_other (a' := b + k) (by omega), Memory.byteAt_write_other (a' := b + k) (by omega)]
      exact ih (by omega) (by omega)

/-- A row ends where a later row begins, or before it. -/
theorem row_end_le {y y' S : Nat} (h : y < y') : y * S + S ≤ y' * S := by
  rw [← Nat.succ_mul]
  exact Nat.mul_le_mul_right S h

/-- The row whose bytes the first `rows` swaps of the flip bring to row `y` (45_atlas.md R384). -/
def swappedRow (height rows y : Nat) : Nat := if y < rows ∨ height ≤ y + rows then height - 1 - y else y

theorem swappedRow_outer {height rows y : Nat} (h : y < rows ∨ height ≤ y + rows) :
    swappedRow height rows y = height - 1 - y := if_pos h

theorem swappedRow_inner {height rows y : Nat} (h : rows ≤ y ∧ y + rows < height) : swappedRow height rows y = y :=
  if_neg (by omega)

/-- The next swap moves two rows that stand between those swapped before. -/
theorem swappedRow_succ {height rows y : Nat} (h : y ≠ rows) (h' : y ≠ height - 1 - rows) :
    swappedRow height (rows + 1) y = swappedRow height rows y := by
  unfold swappedRow
  split <;> split <;> omega

/-- The first `rows` swaps exchange the first and the last `rows` rows, and leave the rows between. -/
theorem flipRows_byteAt {S height rows y x : Nat} {m : Memory} (hm : Memory.wf (some 0) m = true)
    (hrows : 2 * rows ≤ height) (hy : y < height) (hx : x < S) :
    (flipRows S height rows m).byteAt (y * S + x) = m.byteAt (swappedRow height rows y * S + x) := by
  induction rows generalizing y with
  | zero => rw [swappedRow_inner (by omega)]; rfl
  | succ rows ih =>
    have hswap := swapBytes_byteAt (flipRows_wf S height rows hm)
      (row_end_le (show rows < height - 1 - rows by omega)) hx
    have hinner {y : Nat} (h : rows ≤ y ∧ y + rows < height) :
        (flipRows S height rows m).byteAt (y * S + x) = m.byteAt (y * S + x) := by
      rw [ih (by omega) (by omega), swappedRow_inner h]
    simp only [flipRows]
    by_cases hfirst : y = rows
    · rw [hfirst, hswap.1, hinner (by omega), swappedRow_outer (by omega)]
    by_cases hlast : y = height - 1 - rows
    · rw [hlast, hswap.2, hinner (by omega), swappedRow_outer (by omega),
        show height - 1 - (height - 1 - rows) = rows by omega]
    · have hother {z : Nat} (h : y ≠ z) : y * S + x < z * S ∨ z * S + S ≤ y * S + x := by
        rcases Nat.lt_or_gt_of_ne h with hlt | hgt
        · exact .inl (by have := row_end_le (S := S) hlt; omega)
        · exact .inr (by have := row_end_le (S := S) hgt; omega)
      rw [swapBytes_byteAt_other _ (hother hfirst) (hother hlast), ih (by omega) hy, swappedRow_succ hfirst hlast]

theorem flipRows_byteAt_above {S height rows a : Nat} {m : Memory} (hrows : rows ≤ height) (ha : height * S ≤ a) :
    (flipRows S height rows m).byteAt a = m.byteAt a := by
  induction rows with
  | zero => rfl
  | succ rows ih =>
    have hend {y : Nat} (hy : y < height) : y * S + S ≤ a := (row_end_le hy).trans ha
    simp only [flipRows]
    rw [swapBytes_byteAt_other _ (.inr (hend (by omega))) (.inr (hend (by omega))), ih (by omega)]

end Sys2Proof.Machine
end

section
/-! The atlas and the publication (45_atlas.md R382 to R386, R390): O43, O44 and O45. -/

namespace Sys2Proof.Machine

open Sys2Proof.Safety

/-! ## The flip -/

/-- The flip brings row `HEIGHT − 1 − y` to row `y`; with an odd HEIGHT the middle row stays (45_atlas.md R385). -/
theorem atlasByte_flipAtlas {s : State} (h : Memory.wf (some 0) s.atlas = true) {y x : Nat} (hy : y < s.height)
    (hx : x < stride s) :
    atlasByte (flipAtlas s) (y * stride s + x) = atlasByte s ((s.height - 1 - y) * stride s + x) := by
  have hrow : swappedRow s.height (s.height / 2) y = s.height - 1 - y := by
    unfold swappedRow
    split <;> omega
  have hflip := flipRows_byteAt (rows := s.height / 2) h (by omega) hy hx
  rwa [hrow] at hflip

theorem atlasByte_flipAtlas_above (s : State) {a : Nat} (ha : s.height * stride s ≤ a) :
    atlasByte (flipAtlas s) a = atlasByte s a :=
  flipRows_byteAt_above (Nat.div_le_self _ _) ha

/-- An address of the rows of the atlas is a byte of a row. -/
theorem exists_row {a height S : Nat} (h : a < height * S) : ∃ y x, y < height ∧ x < S ∧ a = y * S + x := by
  have hS : 0 < S := Nat.pos_of_ne_zero (by rintro rfl; simp at h)
  exact ⟨a / S, a % S, Nat.div_lt_of_lt_mul (by rwa [Nat.mul_comm]), Nat.mod_lt _ hS, (Nat.div_add_mod' a S).symm⟩

theorem flipAtlas_flipAtlas {s : State} (h : Memory.wf (some 0) s.atlas = true) : flipAtlas (flipAtlas s) = s := by
  have hflip : Memory.wf (some 0) (flipAtlas s).atlas = true := flipRows_wf _ _ _ h
  have hatlas : (flipAtlas (flipAtlas s)).atlas = s.atlas := by
    refine Memory.ext_byteAt (flipRows_wf _ _ _ hflip) h fun a => ?_
    show atlasByte (flipAtlas (flipAtlas s)) a = atlasByte s a
    by_cases ha : a < s.height * stride s
    · obtain ⟨y, x, hy, hx, rfl⟩ := exists_row ha
      calc atlasByte (flipAtlas (flipAtlas s)) (y * stride s + x)
          = atlasByte (flipAtlas s) ((s.height - 1 - y) * stride s + x) := atlasByte_flipAtlas hflip hy hx
        _ = atlasByte s ((s.height - 1 - (s.height - 1 - y)) * stride s + x) := atlasByte_flipAtlas h (by omega) hx
        _ = atlasByte s (y * stride s + x) := by rw [show s.height - 1 - (s.height - 1 - y) = y by omega]
    · exact (atlasByte_flipAtlas_above (flipAtlas s) (not_lt.1 ha)).trans (atlasByte_flipAtlas_above s (not_lt.1 ha))
  calc flipAtlas (flipAtlas s) = { s with atlas := (flipAtlas (flipAtlas s)).atlas } := rfl
    _ = s := by rw [hatlas]

theorem flipAtlas_of_height_le_one {s : State} (h : s.height ≤ 1) : flipAtlas s = s := by
  rw [flipAtlas, show s.height / 2 = 0 by omega, flipRows]

/-- Settles O44: the swaps of the flip mirror the rows one by one, and canonical memories with the same bytes are equal. -/
theorem verticalFlip : Obligations.VerticalFlip := by
  unfold Obligations.VerticalFlip
  intro s hform
  refine ⟨fun hhost hseq => ?_, rfl, fun y x hy hx => ?_, fun a ha => atlasByte_flipAtlas_above s ha,
    flipAtlas_flipAtlas hform.atlas, flipAtlas_of_height_le_one⟩
  · rw [step_sequence hhost (by simp [nextSite, hseq]), sequence, hseq]
    rfl
  · rw [atlasByte_flipAtlas hform.atlas (by omega) hx, show s.height - 1 - (s.height - 1 - y) = y by omega]

/-! ## The placement -/

/-- A byte of the rectangle lies in its frame's band of its row (45_atlas.md R381, R383). -/
theorem rectangle_column {s : State} (h : AtlasForm s) (hseq : s.seq = .blit) {c : Nat} (hc : c < s.celW * s.bpp) :
    (s.frameIdx * s.width + s.celX.toNat) * s.bpp + c < (s.frameIdx + 1) * s.width * s.bpp ∧
      (s.frameIdx * s.width + s.celX.toNat) * s.bpp + c < stride s := by
  have hs : inStream s.seq = true := by rw [hseq]; rfl
  obtain ⟨hx0, -⟩ := h.offset (.inr hs)
  obtain ⟨hx, -⟩ := h.canvas hs
  have hcanvas : s.celX.toNat + s.celW ≤ s.width := by omega
  have hband := band_lt (Nat.lt_succ_self s.frameIdx) hcanvas hc
  refine ⟨by rwa [Nat.mul_comm s.width] at hband, band_lt (h.frame (inFrame_of_inStream hs)).1 hcanvas hc⟩

/-- Rows of the rectangle do not meet. -/
theorem rowOffset_apart {s : State} (h : AtlasForm s) (hseq : s.seq = .blit) {row row' c : Nat} (hrow : row ≠ row')
    (hc : c < s.celW * s.bpp) :
    rowOffset s row + c < rowOffset s row' ∨ rowOffset s row' + s.celW * s.bpp ≤ rowOffset s row + c := by
  have hwidth := (rectangle_column h hseq (c := s.celW * s.bpp - 1) (by omega)).2
  have hrows {y y' : Nat} (hlt : y < y') :
      (s.celY.toNat + y) * stride s + stride s ≤ (s.celY.toNat + y') * stride s := row_end_le (by omega)
  unfold rowOffset
  rcases Nat.lt_or_gt_of_ne hrow with hlt | hgt
  · exact .inl (by have := hrows hlt; omega)
  · exact .inr (by have := hrows hgt; omega)

/-- After its first `rows` rows the placement has written their bytes. -/
theorem blitRows_byteAt {s : State} (hm : Memory.wf (some 0) s.atlas = true) (h : AtlasForm s) (hseq : s.seq = .blit)
    {rows row c : Nat} (hrow : row < rows) (hc : c < s.celW * s.bpp) :
    (blitRows s rows).byteAt (rowOffset s row + c) = tileByte s (row * (s.celW * s.bpp) + c) := by
  induction rows with
  | zero => omega
  | succ rows ih =>
    by_cases heq : row = rows
    · subst heq
      exact Memory.byteAt_fill_inside (blitRows_wf s _ hm) hc
    · exact (Memory.byteAt_fill_other (rowOffset_apart h hseq heq hc)).trans (ih (by omega))

/-- An address outside the rows of the placement keeps its byte. -/
theorem blitRows_byteAt_other {s : State} {rows a : Nat}
    (h : ∀ row < rows, ∀ c < s.celW * s.bpp, a ≠ rowOffset s row + c) :
    (blitRows s rows).byteAt a = s.atlas.byteAt a := by
  induction rows with
  | zero => rfl
  | succ rows ih =>
    have hrow : a < rowOffset s rows ∨ rowOffset s rows + s.celW * s.bpp ≤ a := by
      by_contra hin
      exact h rows (Nat.lt_succ_self _) (a - rowOffset s rows) (by omega) (by omega)
    exact (Memory.byteAt_fill_other hrow).trans (ih fun row hlt => h row (by omega))

theorem blit_byteAt_other {s : State} {a : Nat} (h : ∀ row c, ¬ InRectangle s a row c) :
    atlasByte (blit s) a = atlasByte s a :=
  blitRows_byteAt_other fun row hrow c hc ha => h row c ⟨hrow, hc, ha⟩

/-- Settles O43: the rows of the rectangle are written one by one and do not meet, and each lies in the frame's band. -/
theorem celPlacement : Obligations.CelPlacement := by
  unfold Obligations.CelPlacement
  intro s hmem h hhost hseq
  have hother {a : Nat} : (∀ row c, ¬ InRectangle s a row c) → atlasByte (endChunk (blit s)) a = atlasByte s a :=
    blit_byteAt_other
  refine ⟨endChunk (blit s), ?_, rfl, ?_, fun a => hother, fun a hne => ?_⟩
  · rw [step_sequence hhost (by simp [nextSite, hseq]), sequence, hseq]
    rfl
  · rintro a row c ⟨hrow, hc, rfl⟩
    exact blitRows_byteAt hmem.atlas h hseq hrow hc
  · obtain ⟨row, c, -, hc, rfl⟩ : ∃ row c, InRectangle s a row c := by
      by_contra hout
      exact hne (hother fun row c hin => hout ⟨row, c, hin⟩)
    obtain ⟨hband, hstride⟩ := rectangle_column h hseq hc
    rw [Nat.add_assoc, Nat.mul_add_mod_self_right, Nat.mod_eq_of_lt hstride]
    refine ⟨?_, hband⟩
    rw [Nat.add_mul]
    omega

/-! ## The publication -/

/-- Settles O45: with no action pending, the step in DONE is the publication. -/
theorem publication : Obligations.Publication := by
  unfold Obligations.Publication
  intro s hhost hseq
  rw [step_sequence hhost (by simp [nextSite, hseq]), sequence, hseq, BitVec.ofNat_toNat]
  rfl

end Sys2Proof.Machine
end

section
/-! SUPPORT. The failure causes (60_exceptions.md R400 to R403): the table of R401 in its order, and that ERR_INFO names
its cause; O7 and O8. -/

namespace Sys2Proof.Machine

/-- The causes in the order of R401's table. -/
def causes : List Cause :=
  [.fileTooShort, .badFileMagic, .frameTruncated, .badFrameMagic, .badChunkSize, .frameSizeMismatch, .chunkBodyShort,
    .paletteRange, .celOutOfCanvas, .badFileSize, .sliceNoKeys, .badFrameSize, .colorDepth, .celType, .negativeCelOffset,
    .paletteName, .sliceFlags, .truncated, .badBlockType, .storedLenMismatch, .outputOverflow, .badCodeLengths,
    .oversubscribed, .badRepeat, .badSymbol, .badLengthSymbol, .badDistanceSymbol, .distanceTooFar, .checksumMismatch,
    .shortOutput, .atlasTooLarge, .tileTooLarge]

theorem mem_causes (c : Cause) : c ∈ causes := by cases c <;> decide

/-- No two causes share a code. -/
theorem Cause.code_injective : Function.Injective Cause.code := fun c d =>
  List.inj_on_of_nodup_map (l := causes) (by decide) (mem_causes c) (mem_causes d)

/-- The CAUSE field of ERR_INFO, bits 63:8 (60_exceptions.md R405). -/
theorem errInfoWord_code (c : Cause) : (errInfoWord c).toNat / 256 = c.code := by cases c <;> rfl

/-- ERR_INFO names its cause. -/
theorem errInfoWord_injective : Function.Injective errInfoWord := fun c d h =>
  Cause.code_injective (by rw [← errInfoWord_code, h, errInfoWord_code])

/-- Settles O7: the table lists each cause with what the model gives it. -/
theorem causeTable : Obligations.CauseTable := by
  unfold Obligations.CauseTable
  refine ⟨fun s row hrow => ?_, fun c d => @Cause.code_injective c d, fun c s => ⟨_, raise_eq c s, rfl⟩⟩
  have htable : row ∈ causes.map fun c => (c, c.code, c.cls.code, errAddress c s) := hrow
  obtain ⟨c, -, rfl⟩ := List.mem_map.1 htable
  exact ⟨rfl, rfl, rfl⟩

/-- Settles O8: `raise` is the failure entry, field by field. -/
theorem failureEntry : Obligations.FailureEntry := by
  unfold Obligations.FailureEntry
  intro c s
  rw [raise_eq]
  rfl

end Sys2Proof.Machine
end

section
/-! The engine always goes on (60_exceptions.md R404): every step is a next state, and none newly reports BAD_CODE_LENGTHS
(41_huffman.md R170), because every length a register holds fits a codeword; O50. -/

namespace Sys2Proof.Machine

open Sys2Proof.Safety

/-! ## A next state -/

theorem Runs.exists_next {s : State} {o : Answer} (h : Runs s o) : ∃ t, o = .next t := by
  cases h with
  | goesOn | publishes => exact ⟨_, rfl⟩
  | fails c => exact ⟨_, raise_eq c _⟩

/-- The engine answers a next state at every SEQ, whatever the registers hold. -/
theorem engineStep_exists_next (s : State) : ∃ t, engineStep s = .next t := by
  by_cases hidle : s.seq = .idle
  · exact ⟨s, engineStep_idle hidle⟩
  by_cases herror : s.seq = .error
  · refine ⟨{ s with seq := .idle, phase := .head }, ?_⟩
    rw [engineStep_sequence (by simp [nextSite, herror]), sequence, herror]
    rfl
  · exact (engineStep_runs ⟨hidle, herror⟩).exists_next

/-! ## Table builds -/

/-- A table over lengths that fit a codeword can only fail by over-subscription (41_huffman.md R170, R172). -/
theorem buildTable_error {lengths : List Nat} {numRead numTotal : Nat} {c : Cause} (hread : numRead ≤ numTotal)
    (hfit : ∀ v ∈ lengths, v ≤ 15) (h : buildTable lengths numRead numTotal = .error c) : c = .oversubscribed := by
  have hsmall : ¬ (paddedLengths lengths numRead numTotal).any (16 ≤ ·) = true := by
    rw [any_paddedLengths]
    rintro ⟨k, -, h16⟩
    rcases getD_mem_or lengths k with hmem | hzero
    · have := hfit _ hmem
      omega
    · omega
  rw [buildTable, prepareTable_of_le hread, if_neg hsmall] at h
  dsimp only at h
  rw [finalizeTable_eq] at h
  split at h <;> cases h
  rfl

theorem buildBlockTables_error {s : State} (h : RegistersFit s) {c : Cause} (hc : buildBlockTables s = .error c) :
    c = .oversubscribed := by
  obtain ⟨-, hfit⟩ := h.lens
  unfold buildBlockTables at hc
  split at hc
  · rename_i hlit
    cases hc
    exact buildTable_error h.hlit (fun v hv => hfit v (List.mem_of_mem_take hv)) hlit
  split at hc
  · rename_i hdist
    cases hc
    exact buildTable_error h.hdist (fun v hv => hfit v (List.mem_of_mem_drop (List.mem_of_mem_take hv))) hdist
  · cases hc

/-! ## Answers -/

/-- A next state of the answer reports BAD_CODE_LENGTHS only where `s` did. -/
def NoBadLengths (s : State) : Answer → Prop :=
  Ensures fun t => t.errInfo = errInfoWord .badCodeLengths → s.errInfo = errInfoWord .badCodeLengths

namespace NoBadLengths

theorem next {s t : State} (h : t.errInfo = s.errInfo) : NoBadLengths s (.next t) :=
  Ensures.next fun ht => h ▸ ht

theorem raise {s t : State} {c : Cause} (hc : c ≠ .badCodeLengths) : NoBadLengths s (raise c t) :=
  Ensures.next fun ht => absurd (errInfoWord_injective ht) hc

theorem ite_of_imp {s : State} {p : Prop} [Decidable p] {o o' : Answer} (h : p → NoBadLengths s o)
    (h' : ¬ p → NoBadLengths s o') : NoBadLengths s (if p then o else o') := by
  split
  · exact h ‹_›
  · exact h' ‹_›

theorem ite {s : State} {p : Prop} [Decidable p] {o o' : Answer} (h : NoBadLengths s o) (h' : NoBadLengths s o') :
    NoBadLengths s (if p then o else o') :=
  ite_of_imp (fun _ => h) fun _ => h'

theorem orRaise {α : Type} {s t : State} {r : Except Cause α} {k : α → Answer}
    (hk : ∀ v, r = .ok v → NoBadLengths s (k v)) (hc : ∀ c, r = .error c → c ≠ .badCodeLengths) :
    NoBadLengths s (orRaise r t k) := by
  cases r with
  | ok v => exact hk v rfl
  | error c => exact raise (hc c rfl)

theorem of_eq {s : State} {o o' : Answer} (he : o = o') (h : NoBadLengths s o') : NoBadLengths s o := he ▸ h

/-- The report is the only part of the state that counts. -/
theorem of_errInfo {s t : State} {o : Answer} (he : t.errInfo = s.errInfo) (h : NoBadLengths t o) :
    NoBadLengths s o := by
  unfold NoBadLengths at *
  rwa [he] at h

end NoBadLengths

/-! ## Tokens -/

theorem noBadLengths_frameLoop (f : Nat) {s t : State} (h : t.errInfo = s.errInfo) :
    NoBadLengths s (.next (frameLoop f t)) := by
  rcases frameLoop_cases f t with ⟨-, he⟩ | ⟨-, he⟩ <;> rw [he] <;> exact .next h

theorem noBadLengths_putRun (v r : Nat) (s : State) : NoBadLengths s (putRun v r s) := .ite (.raise nofun) (.next rfl)

theorem noBadLengths_finishMatch (sym extra : Nat) (s : State) : NoBadLengths s (finishMatch sym extra s) :=
  .ite (.raise nofun) (.ite (.raise nofun) (.next (matchCopy_sameHostRegs _ _ s).errInfo))

theorem noBadLengths_execFileHdr (size : Word) (magic nframes width height depth : Half) (tkey : Byte) (s : State) :
    NoBadLengths s (execFileHdr size magic nframes width height depth tkey s) := by
  refine .ite (.raise nofun) (.ite (.raise nofun) ?_)
  split
  · exact .raise nofun
  · exact .ite (.raise nofun) (noBadLengths_frameLoop 0 rfl)

/-- The stored copy's bytes are counted before it, so it does not fail. -/
theorem noBadLengths_execStoredHdr (len nlen : Half) (s : State) : NoBadLengths s (execStoredHdr len nlen s) := by
  refine .ite (.raise nofun) (.ite (.raise nofun) (.ite_of_imp (fun _ => .raise nofun) fun havail => ?_))
  obtain ⟨t, ht⟩ := storedCopy_ok (not_lt.1 havail)
  rw [ht, orRaise_ok]
  exact .next (storedCopy_sameHostRegs ht).errInfo

/-- START clears the report or leaves it (60_exceptions.md R420). -/
theorem noBadLengths_execStart (flip : Bool) (s : State) : NoBadLengths s (execStart flip s) := by
  have hclear : (0 : Reg) ≠ errInfoWord .badCodeLengths := by decide
  rcases execStart_cases flip s with ⟨-, he⟩ | ⟨-, he⟩ <;> rw [he]
  · exact .next rfl
  · exact Ensures.next fun hzero => absurd hzero hclear

/-- No token raises BAD_CODE_LENGTHS: those that check nothing leave the report, the others raise causes of their own. -/
theorem noBadLengths_exec (i : Instr) (s : State) : NoBadLengths s (exec i s) := by
  cases i with
  | fileHdr => exact noBadLengths_execFileHdr ..
  | chunkHdr | chunkPalette | chunkCel | lit => exact .ite (.raise nofun) (.next rfl)
  | frameHdr | chunkSlice | celCompressed | adler32Trailer =>
    exact .ite (.raise nofun) (.ite (.raise nofun) (.next rfl))
  | zlibHdr => exact .ite (.next rfl) (.next rfl)
  | storedHdr => exact noBadLengths_execStoredHdr ..
  | clRep16 => exact .ite (.raise nofun) (noBadLengths_putRun ..)
  | clZero17 | clZero18 => exact noBadLengths_putRun ..
  | dist0 | dist1 | dist2 | dist3 | dist4 | dist5 | dist6 | dist7 | dist8 | dist9 | dist10 | dist11 | dist12 | dist13
  | dist14 | dist15 | dist16 | dist17 | dist18 | dist19 | dist20 | dist21 | dist22 | dist23 | dist24 | dist25 | dist26
  | dist27 | dist28 | dist29 => exact noBadLengths_finishMatch ..
  | palEntryNamed | celTypeOther | blkReserved | lenInvalid | distInvalid => exact .raise nofun
  | start => exact noBadLengths_execStart ..
  | _ => exact .next rfl

/-! ## The engine -/

theorem noBadLengths_rejected (site : Site) (r : Reject) (s : State) : NoBadLengths s (rejected site r s) := by
  cases r with
  | short => exact .raise (by cases site <;> nofun)
  | badSymbol => exact .raise nofun
  | noHeader | noStart => exact .next rfl

/-- The table builds are the only moves that could raise BAD_CODE_LENGTHS. -/
theorem noBadLengths_sequence {s : State} (h : RegistersFit s) : NoBadLengths s (sequence s) := by
  unfold sequence
  cases s.seq with
  | fixedSetup =>
    rw [seqFixedSetup, buildFixedLit_eq, buildFixedDist_eq]
    exact .next rfl
  | dynCl =>
    obtain ⟨-, hfit⟩ := h.clLens
    refine .orRaise (fun _ _ => .next rfl) fun c hc => ?_
    rw [buildTable_error le_rfl (fun v hv => (hfit v hv).trans (by decide)) hc]
    nofun
  | dynLens =>
    refine .orRaise (fun _ _ => .next rfl) fun c hc => ?_
    rw [buildBlockTables_error h hc]
    nofun
  | frameEndCheck => exact .ite (.raise nofun) (noBadLengths_frameLoop _ rfl)
  | _ => exact .next rfl

theorem noBadLengths_engineStep {s : State} (h : RegistersFit s) : NoBadLengths s (engineStep s) :=
  ensures_engineStep
    (fun site i n _ => (noBadLengths_exec i _).of_errInfo (pastToken_sameHostRegs site n s).errInfo)
    (fun site r _ _ => (noBadLengths_rejected site r _).of_errInfo (enterSite_sameHostRegs site s).errInfo)
    (noBadLengths_sequence h)

/-- Settles O50: the engine answers a next state everywhere, and where the registers fit no token, rejection or move of it
raises BAD_CODE_LENGTHS. -/
theorem engineAlwaysSteps : Obligations.EngineAlwaysSteps := by
  unfold Obligations.EngineAlwaysSteps
  intro s hhost
  rw [step_engine hhost]
  obtain ⟨t, ht⟩ := engineStep_exists_next s
  exact ⟨t, ht, fun hfit => (noBadLengths_engineStep hfit).holds t ht⟩

end Sys2Proof.Machine
end

section
/-! The host's side of a load (10_state.md R38 to R43; 60_exceptions.md R420, R422, R423): START, register reads, and the
accesses while BUSY = 0; O2, O4 and O6. -/

namespace Sys2Proof.Machine

open Sys2Proof.Safety

/-! ## START -/

theorem ctrlFlip_ctrlWord (flip : Bool) : ctrlFlip (ctrlWord flip) = flip := by cases flip <;> decide

/-- A load started behind a write of FLIP latches what was written (60_exceptions.md R420). -/
theorem startLoad_writeFlip (flip : Bool) (s : State) :
    startLoad (writeFlip flip s) = { startLoad s with ctrl := ctrlWord flip, flipL := flip } :=
  congrArg (fun latched => { startLoad s with ctrl := ctrlWord flip, flipL := latched }) (ctrlFlip_ctrlWord flip)

theorem exec_start_idle {flip latched : Bool} {s : State} (hb : busy s = false)
    (hlatched : (flip || ctrlFlip s.ctrl) = latched) :
    exec (.start flip) s = .next { startLoad s with ctrl := ctrlWord latched, flipL := latched } := by
  rcases execStart_cases flip s with ⟨hbusy, -⟩ | ⟨-, he⟩
  · exact absurd (hb.symm.trans hbusy) nofun
  · rw [← startLoad_writeFlip, ← hlatched]
    exact he

theorem exec_start_busy (flip : Bool) {s : State} (hb : busy s = true) :
    exec (.start flip) s = .next (writeFlip (flip || ctrlFlip s.ctrl) s) := by
  rcases execStart_cases flip s with ⟨-, he⟩ | ⟨hidle, -⟩
  · exact he
  · exact absurd (hb.symm.trans hidle) nofun

/-- A host write of CTRL with bit 0 set is START (10_state.md R38). -/
theorem step_writeStart {s : State} {v : Reg} {rest : List HostOp} (h : s.host = .writeReg 0 v :: rest)
    (hstart : ctrlStart v = true) : step s = exec (.start (ctrlFlip v)) { s with host := rest } := by
  refine (step_host h nofun).trans ((writeCtrl_eq v _).trans ?_)
  rw [hstart]
  rfl

/-- Without input a started load fails at its first token. -/
theorem failsWith_fileTooShort {s : State} (hhost : s.host = []) (hseq : s.seq = .fileHdr) (hlen : s.inLen = 0) :
    FailsWith .fileTooShort 0 s (step s) := by
  have hempty : (byteBits s 0 (min s.inLen.toNat 128)).length < 1024 := by
    rw [byteBits_length, hlen]
    decide
  exact failsWith_short hhost (site := .fileHdr) (by simp [nextSite, hseq]) (needs_decodeFileHdr _ hempty)

/-- Settles O2: a write of CTRL is START or a write of FLIP, and START does what the laws of `execStart` say. -/
theorem startBeginsLoad : Obligations.StartBeginsLoad := by
  unfold Obligations.StartBeginsLoad
  refine ⟨fun s flip hb => exec_start_idle hb rfl, fun s flip hb => exec_start_busy flip hb,
    fun s v rest h hstart => step_writeStart h hstart, fun s rest h hb => ?afterFlip,
    fun s v h hstart hb hlen => ?noInput⟩
  case afterFlip =>
    have hflip := (step_host h nofun).trans (writeReg_flip (v := 2) _ (by decide))
    have hlatched : (ctrlFlip 1 || ctrlFlip (ctrlWord (ctrlFlip 2))) = true := by decide
    have hload := (step_writeStart (s := writeFlip (ctrlFlip 2) { s with host := .writeReg 0 1 :: rest }) rfl
      (by decide)).trans (exec_start_idle hb hlatched)
    exact ⟨_, _, hflip, hload, rfl, rfl, rfl, rfl⟩
  case noInput =>
    have hload := (step_writeStart h hstart).trans (exec_start_idle hb rfl)
    obtain ⟨u, hu, hinfo, hoffset, hstatus, -⟩ := failsWith_fileTooShort
      (s := { startLoad { s with host := [] } with
        ctrl := ctrlWord (ctrlFlip v || ctrlFlip s.ctrl), flipL := ctrlFlip v || ctrlFlip s.ctrl }) rfl rfl hlen
    exact ⟨_, u, hload, hu, hinfo, hoffset, hstatus⟩

/-! ## Reads and writes -/

section
variable {s : State}

theorem hostRead_busy (v : Option HostValue) (hb : busy s = true) : hostRead v s = .refused .hostReadDuringLoad := by
  simp [hostRead, hb]

variable (hb : busy s = false)
include hb

theorem hostRead_some (v : HostValue) : hostRead (some v) s = .next { s with rx := some v } := by simp [hostRead, hb]

theorem hostRead_none : hostRead none s = .fault .noSuchAddress := by simp [hostRead, hb]

theorem hostWriteIn_idle {a : Nat} (b : Byte) (ha : a < 2 ^ 32 - 1) :
    hostWriteIn a b s = .next { s with inp := s.inp.write none a b } := by
  rw [hostWriteIn, if_neg (by simp [hb]), if_pos ha]

theorem hostWriteIn_outside {a : Nat} (b : Byte) (ha : 2 ^ 32 - 1 ≤ a) :
    hostWriteIn a b s = .fault .noSuchAddress := by
  rw [hostWriteIn, if_neg (by simp [hb]), if_neg (not_lt.2 ha)]

end

/-- A byte of IN after a write: the byte written, and every other as it was. -/
theorem inByte_write (s : State) (a : Nat) (b : Byte) :
    inByte { s with inp := s.inp.write none a b } a = b ∧
      ∀ a', a' ≠ a → inByte { s with inp := s.inp.write none a b } a' = inByte s a' := by
  refine ⟨?_, fun a' ha => ?_⟩
  · rw [inByte, Memory.find_write_none, Option.getD_some]
  · rw [inByte, Memory.find_write_other ha, inByte]

theorem readReg_reserved (s : State) {k : Nat} (h : 15 ≤ k) : readReg s k = 0 := by
  obtain ⟨n, rfl⟩ := Nat.exists_eq_add_of_le' h
  rfl

/-- During a load the result registers read 0 (60_exceptions.md R422). -/
theorem readReg_result {s : State} (h : s.res = Results.zero) {k : Nat} (h5 : 5 ≤ k) (h14 : k ≤ 14) :
    readReg s k = 0 := by
  interval_cases k <;> simp only [readReg, h] <;> rfl

/-- Settles O4: a register read records the register's value, and while BUSY = 1 the report is clear. -/
theorem hostRegisterReads : Obligations.HostRegisterReads := by
  unfold Obligations.HostRegisterReads
  refine ⟨fun s index rest h => step_host h nofun, fun s => ?values, fun s h hb => ?busy, ?results⟩
  case values =>
    exact ⟨rfl, rfl, rfl, rfl, rfl, rfl, rfl, rfl, rfl, rfl, rfl, rfl, rfl, rfl, rfl, fun _ => readReg_reserved s⟩
  case busy =>
    obtain ⟨hinfo, hoffset, hres⟩ := h.running (status_of_busy h hb)
    exact ⟨hinfo, hoffset, fun _ => readReg_result hres⟩
  case results =>
    rintro s _ rest h hb ⟨a, rfl | rfl | rfl | rfl | rfl⟩ <;> exact (step_host h nofun).trans (hostRead_busy _ hb)

section
variable {s : State} {op : HostOp} {rest : List HostOp} {v : Option HostValue} (h : s.host = op :: rest)
  (hw : op ≠ .wait) (hb : busy s = false)
  (hact : hostAct op { s with host := rest } = hostRead v { s with host := rest })
include h hw hb hact

/-- A read inside its space records what stands there. -/
theorem step_read_some {w : HostValue} (hv : v = some w) : step s = .next { s with host := rest, rx := some w } := by
  rw [step_host h hw, hact, hv]
  exact hostRead_some (s := { s with host := rest }) hb w

/-- A read outside its space is the fault (log 13). -/
theorem step_read_none (hv : v = none) : step s = .fault .noSuchAddress := by
  rw [step_host h hw, hact, hv]
  exact hostRead_none (s := { s with host := rest }) hb

end

/-- Settles O6: each access is a read or a write of its memory, inside the space or outside it. -/
theorem hostAccessWhenIdle : Obligations.HostAccessWhenIdle := by
  unfold Obligations.HostAccessWhenIdle
  intro s op rest _ h hb
  have hrest : busy { s with host := rest } = false := hb
  refine ⟨?write, ?writeOutside, ?atlas, ?pal, ?dur, ?tag, ?slice, ?atlasOutside, ?palOutside, ?durOutside, ?tagOutside,
    ?sliceOutside⟩
  case write =>
    rintro a b rfl ha
    exact ⟨_, (step_host h nofun).trans (hostWriteIn_idle hrest b ha), rfl, inByte_write { s with host := rest } a b⟩
  case writeOutside =>
    rintro a b rfl ha
    exact (step_host h nofun).trans (hostWriteIn_outside hrest b ha)
  case atlas =>
    rintro a rfl ha
    exact step_read_some h nofun hb rfl (if_pos ha)
  case pal =>
    rintro k j rfl hk hj
    refine step_read_some h nofun hb rfl ((if_pos (show 4 * k + j < 4 * 256 by omega)).trans ?_)
    rw [show (4 * k + j) / 4 = k by omega, show (4 * k + j) % 4 = j by omega]
    rfl
  case dur =>
    rintro i d rfl hd
    exact step_read_some h nofun hb rfl (congrArg (Option.map HostValue.dur) hd)
  case tag =>
    rintro i d rfl hd
    exact step_read_some h nofun hb rfl (congrArg (Option.map HostValue.tag) hd)
  case slice =>
    rintro i d rfl hd
    exact step_read_some h nofun hb rfl (congrArg (Option.map HostValue.slice) hd)
  case atlasOutside =>
    rintro a rfl ha
    exact step_read_none h nofun hb rfl (if_neg (not_lt.2 ha))
  case palOutside =>
    rintro a rfl ha
    exact step_read_none h nofun hb rfl (if_neg (not_lt.2 ha))
  case durOutside =>
    rintro i rfl hi
    exact step_read_none h nofun hb rfl (congrArg (Option.map HostValue.dur) (List.getElem?_eq_none hi))
  case tagOutside =>
    rintro i rfl hi
    exact step_read_none h nofun hb rfl (congrArg (Option.map HostValue.tag) (List.getElem?_eq_none hi))
  case sliceOutside =>
    rintro i rfl hi
    exact step_read_none h nofun hb rfl (congrArg (Option.map HostValue.slice) (List.getElem?_eq_none hi))

end Sys2Proof.Machine
end

section
/-! Reset, and the host's accesses during a load (60_exceptions.md R420, R422; 70_reset_and_hazards.md R440, R451): O1,
O5 and O51. -/

namespace Sys2Proof.Machine

open Sys2Proof.Safety

/-! ## Reset -/

/-- The table of R440 is what reset leaves, whatever stood before. -/
theorem atReset_resetBlock (s : State) : AtReset (resetBlock s) where
  ctrl := rfl
  status := rfl
  report := ⟨rfl, rfl⟩
  inLen := rfl
  results _ h5 h14 := readReg_result rfl h5 h14
  seq := rfl
  atlas := ⟨rfl, rfl⟩
  lists := ⟨rfl, rfl, rfl⟩
  pal _ _ _ _ := rfl

/-- Settles O1: reset leaves the table, and an idle engine leaves every state as it is. -/
theorem resetLeavesTheTable : Obligations.ResetLeavesTheTable := by
  unfold Obligations.ResetLeavesTheTable
  refine ⟨{ atReset_resetBlock State.reset with }, fun s hidle hhost => ?idle, fun s rest hhost => ?reset⟩
  case idle => exact (step_engine hhost).trans (engineStep_idle hidle)
  case reset => exact ⟨_, step_host hhost nofun, atReset_resetBlock _⟩

theorem memoryForm_resetBlock (s : State) : MemoryForm (resetBlock s) := ⟨rfl, rfl, rfl, rfl⟩

/-- Settles O51: the reset state holds what a reset leaves of the registers and memories the invariants speak of. -/
theorem invariantsAtReset : Obligations.InvariantsAtReset :=
  ⟨{ memoryForm_resetBlock State.reset with }, { hostForm_resetBlock State.reset with },
    { registersFit_resetBlock State.reset with }, { atlasForm_resetBlock State.reset with }⟩

/-! ## Accesses while BUSY = 1 -/

/-- While BUSY = 1 a write of CTRL writes FLIP only; a START keeps a FLIP that is set (log 25). -/
theorem writeReg_ctrl_busy (v : Reg) {s : State} (hb : busy s = true) :
    writeReg 0 v s = .next (writeFlip (ctrlFlip v || (ctrlStart v && ctrlFlip s.ctrl)) s) := by
  cases hstart : ctrlStart v with
  | false => rw [writeReg_flip s hstart, Bool.false_and, Bool.or_false]
  | true =>
    refine (writeCtrl_eq v s).trans ?_
    rw [hstart, Bool.true_and]
    exact exec_start_busy _ hb

theorem hostWriteIn_busy (a : Nat) (b : Byte) {s : State} (hb : busy s = true) :
    hostWriteIn a b s = .refused .hostWriteDuringLoad := by
  simp [hostWriteIn, hb]

/-- Settles O5: each access is its own action, and the laws of the actions say what it does while BUSY = 1. -/
theorem hostAccessDuringLoad : Obligations.HostAccessDuringLoad := by
  unfold Obligations.HostAccessDuringLoad
  intro s op rest hhost hb
  have hrest : busy { s with host := rest } = true := hb
  refine ⟨?writeIn, ?results, ?inLen, ?ctrl, ?read⟩
  case writeIn =>
    rintro a b rfl
    exact (step_host hhost nofun).trans (hostWriteIn_busy a b hrest)
  case results =>
    rintro a (rfl | rfl | rfl | rfl | rfl) <;> exact (step_host hhost nofun).trans (hostRead_busy _ hrest)
  case inLen =>
    rintro v rfl
    exact (step_host hhost nofun).trans (writeReg_inLen_busy v hrest)
  case ctrl =>
    rintro v rfl
    exact (step_host hhost nofun).trans (writeReg_ctrl_busy v hrest)
  case read =>
    rintro k rfl
    exact step_host hhost nofun

end Sys2Proof.Machine
end

section
/-! SUPPORT. What a token takes of its place's bits: one or more wherever one is read; and no place of the engine looks
for START. -/

namespace Sys2Proof.Machine

/-- A decoder's answer on `bs`: a token that leaves at least `n` bits fewer, or a rejection other than a missing
START. -/
def Takes (n : Nat) (bs : Bits) : Decoded → Prop
  | .ok (_, rest) => rest.length + n ≤ bs.length
  | .error r => r ≠ .noStart

theorem takes_ok (i : Instr) (bs : Bits) : Takes 0 bs (.ok (i, bs)) := le_rfl

theorem Takes.of_le {m n : Nat} {bs rest : Bits} {r : Decoded} (h : Takes m rest r)
    (hlen : rest.length + n ≤ bs.length + m) : Takes n bs r := by
  match r with
  | .error _ => exact h
  | .ok (_, left) =>
    have hleft : left.length + m ≤ rest.length := h
    exact (by omega : left.length + n ≤ bs.length)

theorem takes_field {m n : Nat} {bs : Bits} {k : Nat → Bits → Decoded} (hk : ∀ v rest, Takes 0 rest (k v rest))
    (hm : m ≤ n := by decide) : Takes m bs (field n bs k) := by
  unfold field
  split
  · exact nofun
  · rename_i v rest hv
    exact (hk v rest).of_le (by have := (takeBits_some hv).2; omega)

theorem takes_skip {m n : Nat} {bs : Bits} {k : Bits → Decoded} (hk : ∀ rest, Takes 0 rest (k rest))
    (hm : m ≤ n := by decide) : Takes m bs (skip n bs k) := by
  unfold skip
  split
  · exact nofun
  · exact (hk _).of_le (by rw [List.length_drop]; omega)

theorem takes_label {n : Nat} {bs rest : Bits} {label : List Byte} (h : takeBytes n bs = some (label, rest))
    (i : Instr) : Takes 0 bs (.ok (i, rest)) :=
  (takes_ok i rest).of_le (by have := (takeBytes_some h).2; omega)

theorem takes_noSymbol {n : Nat} {T : Table} {bs : Bits} {r : Reject} (h : decodeSymbol T bs = .error r) :
    Takes n bs (.error r) := by
  rcases decodeFrom_error h with rfl | rfl <;> exact nofun

/-- A codeword takes a bit, whatever the table (41_huffman.md R173). -/
theorem takes_symbol {T : Table} {sym : Nat} {bs rest : Bits} {r : Decoded} (h : decodeSymbol T bs = .ok (sym, rest))
    (hr : Takes 0 rest r) : Takes 1 bs r :=
  hr.of_le (decodeSymbol_ok h).1

theorem takes_row (row : SymbolRow) (bs : Bits) : Takes 0 bs (decodeRow row bs) :=
  takes_field (fun _ rest => takes_ok _ rest) (Nat.zero_le _)

theorem takes_decodeSliceBody (bs : Bits) : Takes 0 bs (decodeSliceBody bs) := by
  refine takes_field fun _ _ => takes_field fun _ _ => takes_skip fun _ => takes_field fun _ rest => ?_
  split
  · split
    · exact nofun
    · rename_i hlabel; exact takes_label hlabel _
  · exact takes_ok _ rest

theorem takes_decodeChunkType (bs : Bits) : Takes 1 bs (decodeChunkType bs) := by
  refine takes_field fun _ rest => ?_
  split
  · exact takes_field fun _ _ => takes_field fun _ _ => takes_field fun _ _ => takes_skip fun _ => takes_ok ..
  split
  · exact takes_skip fun _ => takes_field fun _ _ => takes_field fun _ _ => takes_skip fun _ => takes_ok ..
  split
  · exact takes_field fun _ _ => takes_skip fun _ => takes_ok ..
  split
  · exact takes_decodeSliceBody rest
  · exact takes_ok ..

theorem takes_decodePalEntry (bs : Bits) : Takes 1 bs (decodePalEntry bs) := by
  refine takes_field fun _ _ => takes_field fun _ _ => takes_field fun _ _ => takes_field fun _ _ =>
    takes_field fun _ _ => ?_
  split <;> exact takes_ok ..

theorem takes_decodeCelType (bs : Bits) : Takes 1 bs (decodeCelType bs) := by
  refine takes_field fun _ _ => ?_
  split
  · exact takes_skip fun _ => takes_field fun _ _ => takes_field fun _ _ => takes_ok ..
  · exact takes_ok ..

theorem takes_decodeTagRec (bs : Bits) : Takes 1 bs (decodeTagRec bs) := by
  refine takes_field fun _ _ => takes_field fun _ _ => takes_skip fun _ => takes_field fun _ _ => ?_
  split
  · exact nofun
  · rename_i hlabel; exact takes_label hlabel _

theorem takes_decodeSliceKey (bs : Bits) : Takes 1 bs (decodeSliceKey bs) := by
  unfold decodeSliceKey
  exact takes_skip fun _ => takes_field fun _ _ => takes_field fun _ _ => takes_field fun _ _ => takes_field fun _ _ =>
    takes_ok ..

theorem takes_decodeZlibHdr (bs : Bits) : Takes 1 bs (decodeZlibHdr bs) := by
  unfold decodeZlibHdr
  split
  · exact nofun
  rename_i hcmf
  split
  · exact nofun
  rename_i hflg
  split
  · have hlen := (takeBits_some hcmf).2
    exact (takes_ok ..).of_le (by have := (takeBits_some hflg).2; omega)
  · exact nofun

theorem takes_decodeBlkType (bs : Bits) : Takes 1 bs (decodeBlkType bs) := by
  refine takes_field fun _ _ => ?_
  split
  · exact takes_ok ..
  split
  · exact takes_ok ..
  split <;> exact takes_ok ..

theorem takes_decodeClSym (T : Table) (first : Bool) (bs : Bits) : Takes 1 bs (decodeClSym T first bs) := by
  unfold decodeClSym
  split
  · rename_i hsym; exact takes_noSymbol hsym
  rename_i hsym
  refine takes_symbol hsym ?_
  split
  · exact takes_ok ..
  split
  · exact takes_row ..
  · exact nofun

theorem takes_decodeLitSym (T : Table) (bs : Bits) : Takes 1 bs (decodeLitSym T bs) := by
  unfold decodeLitSym
  split
  · rename_i hsym; exact takes_noSymbol hsym
  rename_i hsym
  refine takes_symbol hsym ?_
  split
  · exact takes_ok ..
  split
  · exact takes_ok ..
  split
  · exact takes_row ..
  · exact takes_ok ..

theorem takes_decodeDistSym (T : Table) (bs : Bits) : Takes 1 bs (decodeDistSym T bs) := by
  unfold decodeDistSym
  split
  · rename_i hsym; exact takes_noSymbol hsym
  rename_i hsym
  refine takes_symbol hsym ?_
  split
  · exact takes_row ..
  · exact takes_ok ..

/-- At every place of the engine, with any table: a token takes a bit, and a rejection is not that of CTRL. -/
theorem takes_decode {site : Site} (hsite : site ≠ .ctrl) (T : Table) (bs : Bits) : Takes 1 bs (decode site T bs) := by
  cases site with
  | fileHdr =>
    exact takes_field fun _ _ => takes_field fun _ _ => takes_field fun _ _ => takes_field fun _ _ =>
      takes_field fun _ _ => takes_field fun _ _ => takes_skip fun _ => takes_field fun _ _ => takes_skip fun _ =>
      takes_ok ..
  | frameHdr =>
    exact takes_field fun _ _ => takes_field fun _ _ => takes_field fun _ _ => takes_field fun _ _ =>
      takes_skip fun _ => takes_field fun _ _ => takes_ok ..
  | trailer =>
    exact takes_field fun _ _ => takes_field fun _ _ => takes_field fun _ _ => takes_field fun _ _ => takes_ok ..
  | chunkHdr | dictId | blkHdr | storedHdr => exact takes_field fun _ _ => takes_field fun _ _ => takes_ok ..
  | dynHdr => exact takes_field fun _ _ => takes_field fun _ _ => takes_field fun _ _ => takes_ok ..
  | clLen => exact takes_field fun _ _ => takes_ok ..
  | chunkType => exact takes_decodeChunkType bs
  | palEntry => exact takes_decodePalEntry bs
  | celType => exact takes_decodeCelType bs
  | tagRec => exact takes_decodeTagRec bs
  | sliceKey => exact takes_decodeSliceKey bs
  | zlibHdr => exact takes_decodeZlibHdr bs
  | blkType => exact takes_decodeBlkType bs
  | clSym first => exact takes_decodeClSym T first bs
  | litSym => exact takes_decodeLitSym T bs
  | distSym => exact takes_decodeDistSym T bs
  | ctrl => exact absurd rfl hsite

/-- The places whose bits are those of the compressed range. -/
def readsStream : Site → Bool
  | .zlibHdr | .dictId | .trailer | .blkHdr | .storedHdr | .dynHdr | .clLen | .clSym _ | .litSym | .distSym => true
  | .fileHdr | .frameHdr | .chunkHdr | .chunkType | .palEntry | .celType | .tagRec | .sliceKey | .blkType | .ctrl =>
    false

theorem avail_enterSite_le (site : Site) (s : State) : avail (enterSite site s) ≤ avail s := by
  have halign : avail (byteAlign s) ≤ avail s := Nat.sub_le_sub_left (alignUp_ge s.brPos) _
  cases site with
  | storedHdr | trailer => exact halign
  | _ => exact le_rfl

theorem siteBits_stream {site : Site} (h : readsStream site = true) (s : State) : siteBits site s = bitStream s := by
  cases site with
  | fileHdr | frameHdr | chunkHdr | chunkType | palEntry | celType | tagRec | sliceKey | blkType | ctrl => cases h
  | _ => rfl

theorem moveCursor_stream {site : Site} (h : readsStream site = true) (n : Nat) (s : State) :
    moveCursor site n s = advanceBits n s := by
  cases site with
  | fileHdr | frameHdr | chunkHdr | chunkType | palEntry | celType | tagRec | sliceKey | blkType | ctrl => cases h
  | _ => rfl

/-- A token read from the stream leaves fewer bits of it. -/
theorem avail_pastToken_lt {site : Site} {s : State} {T : Table} {i : Instr} {rest : Bits}
    (hstream : readsStream site = true) (hd : decode site T (siteBits site (enterSite site s)) = .ok (i, rest)) :
    avail (pastToken site ((siteBits site (enterSite site s)).length - rest.length) s) < avail s := by
  have htakes := takes_decode (site := site) (by rintro rfl; cases hstream) T (siteBits site (enterSite site s))
  rw [hd] at htakes
  have hlen : rest.length + 1 ≤ (siteBits site (enterSite site s)).length := htakes
  have henter := avail_enterSite_le site s
  rw [siteBits_stream hstream, bitStream_length] at hlen ⊢
  rw [pastToken, moveCursor_stream hstream, avail_advanceBits]
  omega

end Sys2Proof.Machine
end

section
/-! Every load ends (70_reset_and_hazards.md R455, R456): what is ahead of a load falls with every step of the engine,
whatever state it is in; O57. -/

namespace Sys2Proof.Machine

open Sys2Proof.Safety

/-! ## What is ahead of a load -/

/-- The parts of a load that are left: the walk and the flip behind the file header, the publication behind both. -/
def loadPart : Seq → Nat
  | .fileHdr => 3
  | .frameHdr | .chunkHdr | .palette | .cel | .tags | .slice | .skip | .frameEndCheck | .zHdr | .blkHdr | .stored
  | .fixedSetup | .dynHdr | .dynCl | .dynLens | .symbols | .trailer | .blit => 2
  | .flip => 1
  | .idle | .done | .error => 0

/-- The parts of a frame that are left: its chunks behind its header, its end behind both. -/
def framePart : Seq → Nat
  | .frameHdr => 2
  | .frameEndCheck => 0
  | _ => 1

/-- The frames that are left, the current one by its parts. -/
def framesAhead (s : State) : Nat := 3 * (s.nframes - s.frameIdx) + framePart s.seq

/-- The chunks that are left. A chunk counts less once its header is read, and more than the chunks behind it, also
where CHUNKS_LEFT is 0. -/
def chunksAhead (s : State) : Nat :=
  if inChunk s.seq s.phase then 2 * (s.chunksLeft - 1) + 1 else 2 * s.chunksLeft

/-- The parts of a chunk that are left: a cel behind the chunk's type, the loop of its body behind both. -/
def chunkPart : Seq → Nat
  | .chunkHdr => 2
  | .cel => 1
  | _ => 0

/-- The parts of a stream by how many can follow without a bit being read. -/
def streamPart : Seq → Nat
  | .zHdr => 6
  | .blkHdr => 5
  | .stored | .fixedSetup | .dynHdr => 4
  | .dynCl => 3
  | .dynLens => 2
  | .symbols => 1
  | _ => 0

/-- The bits of a stream that are left; one bit counts more than all parts of a stream. -/
def streamAhead (s : State) : Nat := 7 * avail s + streamPart s.seq

/-- What is left of the loop in a chunk's body. -/
def bodyAhead (s : State) : Nat :=
  match s.seq with
  | .palette => s.palLast + 1 - s.palK
  | .tags => s.tagN - s.tagI
  | _ => streamAhead s

/-- What is ahead of a load, the outer loops first. -/
def loadAhead (s : State) : ℕ ×ₗ ℕ ×ₗ ℕ ×ₗ ℕ ×ₗ ℕ :=
  toLex (loadPart s.seq, toLex (framesAhead s, toLex (chunksAhead s, toLex (chunkPart s.seq, bodyAhead s))))

theorem loadAhead_lt_iff {s t : State} : loadAhead t < loadAhead s ↔
    loadPart t.seq ≤ loadPart s.seq ∧ (loadPart t.seq = loadPart s.seq →
      framesAhead t ≤ framesAhead s ∧ (framesAhead t = framesAhead s →
        chunksAhead t ≤ chunksAhead s ∧ (chunksAhead t = chunksAhead s →
          chunkPart t.seq ≤ chunkPart s.seq ∧ (chunkPart t.seq = chunkPart s.seq → bodyAhead t < bodyAhead s)))) := by
  simp only [loadAhead, Prod.Lex.toLex_lt_toLex']

theorem streamPart_le (seq : Seq) : streamPart seq ≤ 6 := by cases seq <;> decide

theorem inChunk_of_inStream {seq : Seq} (phase : Phase) (h : inStream seq = true) : inChunk seq phase = true := by
  cases seq <;> simp_all [inStream, inChunk]

theorem chunkPart_of_inStream {seq : Seq} (h : inStream seq = true) : chunkPart seq = 0 := by
  cases seq <;> simp_all [inStream, chunkPart]

theorem bodyAhead_of_inStream {s : State} (h : inStream s.seq = true) : bodyAhead s = streamAhead s := by
  cases hseq : s.seq <;> simp_all [inStream, bodyAhead]

theorem bodyAhead_palette {s : State} (h : s.seq = .palette) : bodyAhead s = s.palLast + 1 - s.palK := by
  rw [bodyAhead, h]

theorem bodyAhead_tags {s : State} (h : s.seq = .tags) : bodyAhead s = s.tagN - s.tagI := by
  rw [bodyAhead, h]

/-- In a chunk the walk and the frame are in their middle part. -/
theorem parts_of_inChunk {seq : Seq} {phase : Phase} (h : inChunk seq phase = true) :
    loadPart seq = 2 ∧ framePart seq = 1 := by
  cases seq <;> simp_all [inChunk, loadPart, framePart]

/-! ## Answers -/

/-- The two states are at the same frame and chunk, with the same host actions pending. -/
structure SameCounts (s t : State) : Prop where
  nframes : t.nframes = s.nframes
  frameIdx : t.frameIdx = s.frameIdx
  chunksLeft : t.chunksLeft = s.chunksLeft
  host : t.host = s.host

theorem SameCounts.trans {s t u : State} (h : SameCounts s t) (h' : SameCounts t u) : SameCounts s u :=
  ⟨h'.nframes.trans h.nframes, h'.frameIdx.trans h.frameIdx, h'.chunksLeft.trans h.chunksLeft, h'.host.trans h.host⟩

/-- An answer of the engine that ends the load or has less ahead of it, and leaves the host's schedule alone. -/
def Advances (s : State) : Answer → Prop :=
  Ensures fun t => t.host = s.host ∧ (t.seq = .idle ∨ loadAhead t < loadAhead s)

namespace Advances

theorem of_eq {s : State} {o o' : Answer} (he : o = o') (h : Advances s o') : Advances s o := he ▸ h

theorem raise {s t : State} {c : Cause} (hhost : t.host = s.host) : Advances s (raise c t) :=
  Ensures.next ⟨hhost, .inl rfl⟩

theorem next {s t : State} (hhost : t.host = s.host) (h : loadAhead t < loadAhead s) : Advances s (.next t) :=
  Ensures.next ⟨hhost, .inr h⟩

/-- A later part of the load. -/
theorem part {s t : State} (hhost : t.host = s.host) (h : loadPart t.seq < loadPart s.seq) : Advances s (.next t) :=
  .next hhost (loadAhead_lt_iff.2 ⟨h.le, fun he => absurd he h.ne⟩)

/-- A later frame, or a later part of the frame. -/
theorem frame {s t : State} (hhost : t.host = s.host) (hpart : loadPart t.seq = loadPart s.seq)
    (h : framesAhead t < framesAhead s) : Advances s (.next t) :=
  .next hhost (loadAhead_lt_iff.2 ⟨hpart.le, fun _ => ⟨h.le, fun he => absurd he h.ne⟩⟩)

/-- A later chunk, or a chunk behind its header. -/
theorem chunk {s t : State} (hhost : t.host = s.host) (hpart : loadPart t.seq = loadPart s.seq)
    (hframes : framesAhead t = framesAhead s) (h : chunksAhead t < chunksAhead s) : Advances s (.next t) :=
  .next hhost (loadAhead_lt_iff.2 ⟨hpart.le, fun _ => ⟨hframes.le, fun _ => ⟨h.le, fun he => absurd he h.ne⟩⟩⟩)

/-- A later part of the same chunk, or its loop nearer to its end. -/
theorem body {s t : State} (h : SameCounts s t) (hs : inChunk s.seq s.phase = true) (ht : inChunk t.seq t.phase = true)
    (hpart : chunkPart t.seq ≤ chunkPart s.seq)
    (hlt : chunkPart t.seq = chunkPart s.seq → bodyAhead t < bodyAhead s) : Advances s (.next t) := by
  obtain ⟨hload, hframe⟩ := parts_of_inChunk hs
  obtain ⟨hload', hframe'⟩ := parts_of_inChunk ht
  have hframes : framesAhead t = framesAhead s := by
    rw [framesAhead, framesAhead, hframe, hframe', h.nframes, h.frameIdx]
  have hchunks : chunksAhead t = chunksAhead s := by
    rw [chunksAhead, chunksAhead, if_pos hs, if_pos ht, h.chunksLeft]
  exact .next h.host (loadAhead_lt_iff.2
    ⟨(hload'.trans hload.symm).le, fun _ => ⟨hframes.le, fun _ => ⟨hchunks.le, fun _ => ⟨hpart, hlt⟩⟩⟩⟩)

/-- A stream with less ahead of it. -/
theorem stream {s t : State} (h : SameCounts s t) (hs : inStream s.seq = true) (ht : inStream t.seq = true)
    (hlt : streamAhead t < streamAhead s) : Advances s (.next t) := by
  refine .body h (inChunk_of_inStream _ hs) (inChunk_of_inStream _ ht) ?_ fun _ => ?_
  · rw [chunkPart_of_inStream hs, chunkPart_of_inStream ht]
  · rwa [bodyAhead_of_inStream hs, bodyAhead_of_inStream ht]

/-- A stream of which bits were read. -/
theorem read {s t : State} (h : SameCounts s t) (hs : inStream s.seq = true) (ht : inStream t.seq = true)
    (hlt : avail t < avail s) : Advances s (.next t) := by
  have hpart := streamPart_le t.seq
  exact .stream h hs ht (by unfold streamAhead; omega)

/-- The end of a chunk (44_container.md R345). -/
theorem endChunk {s t : State} (h : SameCounts s t) (hs : inChunk s.seq s.phase = true) :
    Advances s (.next (endChunk t)) := by
  obtain ⟨hload, hframe⟩ := parts_of_inChunk hs
  have hframes : framesAhead (Machine.endChunk t) = framesAhead s := by
    rw [framesAhead, framesAhead, hframe, endChunk_nframes, endChunk_frameIdx, h.nframes, h.frameIdx]
    rfl
  have hchunks : chunksAhead (Machine.endChunk t) = 2 * (s.chunksLeft - 1) := by rw [← h.chunksLeft]; rfl
  refine .chunk h.host hload.symm hframes ?_
  rw [hchunks, chunksAhead, if_pos hs]
  omega

/-- The walk is left, or goes on with the next frame (44_container.md R339). -/
theorem frameLoop {f : Nat} {s t : State} (hhost : t.host = s.host) (hpart : 2 ≤ loadPart s.seq)
    (hnext : f < t.nframes → Advances s (.next { t with frameIdx := f, seq := .frameHdr, phase := .head })) :
    Advances s (.next (frameLoop f t)) := by
  rcases frameLoop_cases f t with ⟨hlt, he⟩ | ⟨-, he⟩ <;> rw [he]
  · exact hnext hlt
  · refine .part hhost (lt_of_lt_of_le ?_ hpart)
    rw [afterFrames_seq]
    split <;> decide

end Advances

/-! ## Tokens -/

theorem pastToken_sameCounts (site : Site) (n : Nat) (s : State) : SameCounts s (pastToken site n s) := by
  cases site <;> exact ⟨rfl, rfl, rfl, rfl⟩

theorem enterSite_sameCounts (site : Site) (s : State) : SameCounts s (enterSite site s) := by
  cases site <;> exact ⟨rfl, rfl, rfl, rfl⟩

theorem matchCopy_sameCounts_and_avail (dist n : Nat) (s : State) :
    SameCounts s (matchCopy dist n s) ∧ avail (matchCopy dist n s) = avail s := by
  rw [matchCopy_frame]
  exact ⟨⟨rfl, rfl, rfl, rfl⟩, rfl⟩

theorem storedCopy_sameCounts_and_avail {n : Nat} {s t : State} (h : storedCopy n s = .ok t) :
    SameCounts s t ∧ avail t ≤ avail s := by
  rw [(storedCopy_frame h).2]
  exact ⟨⟨rfl, rfl, rfl, rfl⟩, Nat.sub_le_sub_left (Nat.le_add_right ..) _⟩

theorem inStream_of_readsStream {place : Site} (h : readsStream place = true) : inStream (siteSeq place) = true := by
  cases place <;> simp_all [readsStream, siteSeq, inStream]

theorem readsStream_tokenSite (site : Site) : readsStream (tokenSite site) = readsStream site := by cases site <;> rfl

theorem endBlock_inStream (s : State) : inStream (endBlock s).seq = true := by
  rw [endBlock_seq]
  split <;> rfl

/-- A place other than that of the code-length symbols is known from its tokens. -/
theorem site_of_tokenSite {site place : Site} (h : place = tokenSite site) (hp : place ≠ .clSym false) :
    site = place := by
  cases site with
  | clSym first => exact absurd h hp
  | _ => exact h.symm

/-- What a place says of the loop it is read in: the loop is not at its end, and a chunk's type stands behind its
header. -/
structure LoopGoesOn (site : Site) (s : State) : Prop where
  chunkHdr : site = .chunkHdr → s.phase = .head ∧ 0 < s.chunksLeft
  chunkType : site = .chunkType → s.phase = .tail
  palEntry : site = .palEntry → s.palK ≤ s.palLast
  tagRec : site = .tagRec → s.tagI < s.tagN

theorem nextSite_loopGoesOn {s : State} {site : Site} (h : nextSite s = some site) : LoopGoesOn site s := by
  unfold nextSite at h
  split at h <;> try split at h
  all_goals cases h
  all_goals constructor <;> simp_all

/-- The dispatch by BTYPE goes on to the block's own state, or fails (42_inflate.md R200 to R204). -/
theorem exec_blkType {i : Instr} (h : siteOf i = .blkType) (s : State) :
    (∃ seq, inStream seq = true ∧ streamPart seq = 4 ∧ exec i s = .next { s with seq := seq, phase := .head }) ∨
    exec i s = raise .badBlockType s := by
  cases i with
  | blkStored => exact .inl ⟨.stored, rfl, rfl, rfl⟩
  | blkFixed => exact .inl ⟨.fixedSetup, rfl, rfl, rfl⟩
  | blkDynamic => exact .inl ⟨.dynHdr, rfl, rfl, rfl⟩
  | blkReserved => exact .inr rfl
  | _ => cases h

theorem exec_dictId {i : Instr} (h : siteOf i = .dictId) (s : State) :
    exec i s = .next { s with seq := .blkHdr, phase := .head } := by
  cases i with
  | zlibDictid => rfl
  | _ => cases h

/-- The tokens of a chunk's type go on to a part of its body (44_container.md R348). -/
theorem advances_chunkType {s t : State} (hsite : nextSite s = some .chunkType) (h : SameCounts s t) {seq : Seq}
    (ht : t.seq = seq) (hphase : t.phase = .head) (hin : inChunk seq .head = true) : Advances s (.next t) := by
  have hseq : s.seq = .chunkHdr := seq_of_nextSite hsite
  have htail := (nextSite_loopGoesOn hsite).chunkType rfl
  have hpart : chunkPart t.seq < chunkPart s.seq := by
    rw [ht, hseq]
    cases seq <;> simp_all [inChunk, chunkPart]
  exact .body h (by rw [hseq, htail]; rfl) (by rw [ht, hphase]; exact hin) hpart.le fun he => absurd he hpart.ne

/-- A stream's next part, without a bit of it read. -/
theorem advances_streamPart {s t : State} {seq : Seq} (h : SameCounts s t) (hs : s.seq = seq) (seq' : Seq)
    (ht : t.seq = seq') (havail : avail t = avail s)
    (hlt : inStream seq = true ∧ inStream seq' = true ∧ streamPart seq' < streamPart seq) : Advances s (.next t) := by
  subst hs ht
  obtain ⟨hs, ht, hlt⟩ := hlt
  exact .stream h hs ht (by unfold streamAhead; omega)

/-- The palette's loop goes on (44_container.md R352). -/
theorem advances_palette {s t : State} (h : SameCounts s t) (hs : s.seq = .palette) (ht : t.seq = .palette)
    (hlast : t.palLast = s.palLast) (hleft : s.palK ≤ s.palLast) (hk : s.palK < t.palK) : Advances s (.next t) := by
  refine .body h (by rw [hs]; rfl) (by rw [ht]; rfl) (by rw [hs, ht]) fun _ => ?_
  rw [bodyAhead_palette hs, bodyAhead_palette ht, hlast]
  omega

/-- The tags' loop goes on (44_container.md R370). -/
theorem advances_tags {s t : State} (h : SameCounts s t) (hs : s.seq = .tags) (ht : t.seq = .tags)
    (hn : t.tagN = s.tagN) (hleft : s.tagI < s.tagN) (hi : s.tagI < t.tagI) : Advances s (.next t) := by
  refine .body h (by rw [hs]; rfl) (by rw [ht]; rfl) (by rw [hs, ht]) fun _ => ?_
  rw [bodyAhead_tags hs, bodyAhead_tags ht, hn]
  omega

theorem advances_execCelCompressed (w height : Half) {s u : State} (hseq : s.seq = .cel) (h : SameCounts s u) :
    Advances s (execCelCompressed w height u) := by
  rcases execCelCompressed_cases w height u with ⟨c, he⟩ | he
  · exact .of_eq he (.raise h.host)
  · refine .of_eq he (.body (h.trans ⟨rfl, rfl, rfl, rfl⟩) (by rw [hseq]; rfl) rfl ?_ ?_) <;> rw [hseq]
    · exact Nat.zero_le _
    · exact nofun

section
variable {s u : State} (hsite : nextSite s = some .chunkType) (h : SameCounts s u)
include hsite h

theorem advances_execChunkPalette (count first last : Word) : Advances s (execChunkPalette count first last u) := by
  rcases execChunkPalette_cases count first last u with he | ⟨-, he⟩
  · exact .of_eq he (.raise h.host)
  · exact .of_eq he (advances_chunkType hsite (h.trans ⟨rfl, rfl, rfl, rfl⟩) rfl rfl rfl)

theorem advances_execChunkCel (x y : Half) : Advances s (execChunkCel x y u) := by
  rcases execChunkCel_cases x y u with he | he
  · exact .of_eq he (.raise h.host)
  · exact .of_eq he (advances_chunkType hsite (h.trans ⟨rfl, rfl, rfl, rfl⟩) rfl rfl rfl)

theorem advances_execChunkSlice (nkeys flags : Word) (label : List Byte) :
    Advances s (execChunkSlice nkeys flags label u) := by
  rcases execChunkSlice_cases nkeys flags label u with ⟨c, he⟩ | he
  · exact .of_eq he (.raise h.host)
  · exact .of_eq he (advances_chunkType hsite (h.trans ⟨rfl, rfl, rfl, rfl⟩) rfl rfl rfl)

end

theorem advances_execFileHdr (size : Word) (magic nframes width height depth : Half) (tkey : Byte) {s : State}
    (hseq : s.seq = .fileHdr) : Advances s (execFileHdr size magic nframes width height depth tkey s) := by
  rcases execFileHdr_cases size magic nframes width height depth tkey s with ⟨c, he⟩ | ⟨bpp, -, -, he | he⟩
  · exact .of_eq he (.raise rfl)
  · exact .of_eq he (.raise rfl)
  · exact .of_eq he (.frameLoop rfl (by rw [hseq]; decide) fun _ => .part rfl (by rw [hseq]; exact Nat.lt_succ_self 2))

theorem advances_execFrameHdr (bytes : Word) (magic legacy duration : Half) (newCount : Word) {s u : State}
    (hseq : s.seq = .frameHdr) (h : SameCounts s u) :
    Advances s (execFrameHdr bytes magic legacy duration newCount u) := by
  rcases execFrameHdr_cases bytes magic legacy duration newCount u with ⟨c, he⟩ | ⟨-, -, he⟩
  · exact .of_eq he (.raise h.host)
  · refine .of_eq he (.frame h.host (by rw [hseq]; rfl) ?_)
    show 3 * (u.nframes - u.frameIdx) + 1 < framesAhead s
    rw [h.nframes, h.frameIdx, framesAhead, hseq]
    exact Nat.lt_succ_self _

theorem advances_execChunkHdr (size : Word) (type : Half) {s u : State} (hsite : nextSite s = some .chunkHdr)
    (h : SameCounts s u) : Advances s (execChunkHdr size type u) := by
  have hseq : s.seq = .chunkHdr := seq_of_nextSite hsite
  obtain ⟨hhead, hleft⟩ := (nextSite_loopGoesOn hsite).chunkHdr rfl
  rcases execChunkHdr_cases size type u with he | ⟨-, he⟩
  · exact .of_eq he (.raise h.host)
  · refine .of_eq he (.chunk h.host (by rw [hseq]) ?_ ?_)
    · show 3 * (u.nframes - u.frameIdx) + 1 = framesAhead s
      rw [h.nframes, h.frameIdx, framesAhead, hseq]
      rfl
    · show 2 * (u.chunksLeft - 1) + 1 < chunksAhead s
      rw [h.chunksLeft, chunksAhead, hseq, hhead]
      show 2 * (s.chunksLeft - 1) + 1 < 2 * s.chunksLeft
      omega

/-- The dispatch by BTYPE reads no bit of the stream: its bits are in the register (42_inflate.md R200). -/
theorem advances_blkType {i : Instr} {s u : State} (hsite : nextSite s = some .blkType) (hi : siteOf i = .blkType)
    (h : SameCounts s u) (havail : avail u = avail s) : Advances s (exec i u) := by
  rcases exec_blkType hi u with ⟨seq, hin, hpart, he⟩ | he
  · exact .of_eq he (advances_streamPart (h.trans ⟨rfl, rfl, rfl, rfl⟩) (seq_of_nextSite hsite) seq rfl havail
      ⟨rfl, hin, by rw [hpart]; decide⟩)
  · exact .of_eq he (.raise h.host)

section
variable {s u : State} (hin : inStream s.seq = true) (h : SameCounts s u) (hread : avail u < avail s)
include hin h hread

theorem advances_putRun (hseq : u.seq = s.seq) (v r : Nat) : Advances s (putRun v r u) := by
  rcases putRun_cases v r u with ⟨-, he⟩ | ⟨-, he⟩
  · exact .of_eq he (.raise h.host)
  · exact .of_eq he (.read (h.trans ⟨rfl, rfl, rfl, rfl⟩) hin (hseq ▸ hin) hread)

theorem advances_finishMatch (sym extra : Nat) : Advances s (finishMatch sym extra u) := by
  rcases finishMatch_cases sym extra u with ⟨-, he⟩ | ⟨-, -, he⟩ | ⟨-, -, he⟩
  · exact .of_eq he (.raise h.host)
  · exact .of_eq he (.raise h.host)
  · obtain ⟨hcopy, havail⟩ := matchCopy_sameCounts_and_avail (distanceOperand sym extra) u.matchLen u
    exact .of_eq he (.read (h.trans (hcopy.trans ⟨rfl, rfl, rfl, rfl⟩)) hin rfl (havail.trans_lt hread))

theorem advances_execClRep16 (hseq : u.seq = s.seq) (extra : BitVec 2) : Advances s (execClRep16 extra u) := by
  rcases execClRep16_cases extra u with he | he
  · exact .of_eq he (.raise h.host)
  · exact .of_eq he (advances_putRun hin h hread hseq _ _)

theorem advances_execLit (hseq : u.seq = s.seq) (b : Byte) : Advances s (execLit b u) := by
  rcases execLit_cases b u with he | ⟨-, he⟩
  · exact .of_eq he (.raise h.host)
  · exact .of_eq he (.read (h.trans ⟨rfl, rfl, rfl, rfl⟩) hin (hseq ▸ hin) hread)

theorem advances_execZlibHdr (cmf flg : Byte) : Advances s (execZlibHdr cmf flg u) := by
  rcases execZlibHdr_cases cmf flg u with he | he <;>
    exact .of_eq he (.read (h.trans ⟨rfl, rfl, rfl, rfl⟩) hin rfl hread)

theorem advances_execAdler32Trailer (adler : Word) : Advances s (execAdler32Trailer adler u) := by
  rcases execAdler32Trailer_cases adler u with ⟨c, he⟩ | he
  · exact .of_eq he (.raise h.host)
  · exact .of_eq he (.read (h.trans ⟨rfl, rfl, rfl, rfl⟩) hin rfl hread)

theorem advances_execStoredHdr (len nlen : Half) : Advances s (execStoredHdr len nlen u) := by
  rcases execStoredHdr_cases len nlen u with ⟨c, he⟩ | ⟨t, -, ht, he⟩
  · exact .of_eq he (.raise h.host)
  · obtain ⟨hcopy, havail⟩ := storedCopy_sameCounts_and_avail ht
    exact .of_eq he (.read (h.trans (hcopy.trans ⟨rfl, rfl, rfl, rfl⟩)) hin (endBlock_inStream t)
      (havail.trans_lt hread))

end

/-- Every token ends the load or brings it nearer to its end: a token of a stream by the bits it takes, a token of the
container by the loop it is read in. -/
theorem advances_exec {s : State} {site : Site} {i : Instr} {n : Nat} (hsite : nextSite s = some site)
    (hi : siteOf i = tokenSite site) (hread : readsStream site = true → avail (pastToken site n s) < avail s) :
    Advances s (exec i (pastToken site n s)) := by
  have hcounts := pastToken_sameCounts site n s
  have hseq : s.seq = siteSeq (siteOf i) := by rw [hi, siteSeq_tokenSite]; exact seq_of_nextSite hsite
  have hpast : (pastToken site n s).seq = s.seq := pastToken_seq site n s
  have hin (h : readsStream (siteOf i) = true) : inStream s.seq = true := hseq ▸ inStream_of_readsStream h
  have hless (h : readsStream (siteOf i) = true) : avail (pastToken site n s) < avail s :=
    hread (by rw [← readsStream_tokenSite, ← hi]; exact h)
  induction i using Instr.byMeaning with
  | codeLength i v _ hplace he =>
    rw [he]
    have hs := hin (hplace ▸ rfl)
    exact .read (hcounts.trans ⟨rfl, rfl, rfl, rfl⟩) hs (hpast ▸ hs) (hless (hplace ▸ rfl))
  | zeroRun i r hplace he =>
    rw [he]
    exact advances_putRun (hin (hplace ▸ rfl)) hcounts (hless (hplace ▸ rfl)) hpast 0 r
  | length i sym extra hplace he =>
    rw [he]
    exact .read (hcounts.trans ⟨rfl, rfl, rfl, rfl⟩) (hin (hplace ▸ rfl)) rfl (hless (hplace ▸ rfl))
  | distance i sym extra hplace he =>
    rw [he]
    exact advances_finishMatch (hin (hplace ▸ rfl)) hcounts (hless (hplace ▸ rfl)) sym extra
  | fails i c he => rw [he]; exact .raise hcounts.host
  | moves i seq hplace hc he =>
    rcases hplace with hplace | hplace | hplace
    · obtain rfl := site_of_tokenSite (hplace.symm.trans hi) nofun
      rw [he]
      exact advances_chunkType hsite (hcounts.trans ⟨rfl, rfl, rfl, rfl⟩) rfl rfl hc
    · rw [exec_dictId hplace]
      exact .read (hcounts.trans ⟨rfl, rfl, rfl, rfl⟩) (hin (hplace ▸ rfl)) rfl (hless (hplace ▸ rfl))
    · obtain rfl := site_of_tokenSite (hplace.symm.trans hi) nofun
      exact advances_blkType hsite hplace hcounts rfl
  | fileHdr =>
    obtain rfl := site_of_tokenSite hi nofun
    exact advances_execFileHdr _ _ _ _ _ _ _ hseq
  | frameHdr => exact advances_execFrameHdr _ _ _ _ _ hseq hcounts
  | chunkHdr =>
    obtain rfl := site_of_tokenSite hi nofun
    exact advances_execChunkHdr _ _ hsite hcounts
  | chunkPalette =>
    obtain rfl := site_of_tokenSite hi nofun
    exact advances_execChunkPalette hsite hcounts _ _ _
  | chunkCel =>
    obtain rfl := site_of_tokenSite hi nofun
    exact advances_execChunkCel hsite hcounts _ _
  | chunkTags =>
    obtain rfl := site_of_tokenSite hi nofun
    exact advances_chunkType hsite (hcounts.trans ⟨rfl, rfl, rfl, rfl⟩) rfl rfl rfl
  | chunkSlice =>
    obtain rfl := site_of_tokenSite hi nofun
    exact advances_execChunkSlice hsite hcounts _ _ _
  | palEntry =>
    obtain rfl := site_of_tokenSite hi nofun
    have hleft := (nextSite_loopGoesOn hsite).palEntry rfl
    exact advances_palette ⟨rfl, rfl, rfl, rfl⟩ hseq hseq rfl hleft (Nat.lt_succ_self s.palK)
  | tagRec =>
    obtain rfl := site_of_tokenSite hi nofun
    have hleft := (nextSite_loopGoesOn hsite).tagRec rfl
    exact advances_tags ⟨rfl, rfl, rfl, rfl⟩ hseq hseq rfl hleft (Nat.lt_succ_self s.tagI)
  | celCompressed => exact advances_execCelCompressed _ _ hseq hcounts
  | sliceKey => exact .endChunk (hcounts.trans ⟨rfl, rfl, rfl, rfl⟩) (by rw [hseq]; rfl)
  | zlibHdr cmf flg => exact advances_execZlibHdr (hin rfl) hcounts (hless rfl) cmf flg
  | adler32Trailer => exact advances_execAdler32Trailer (hin rfl) hcounts (hless rfl) _
  | storedHdr => exact advances_execStoredHdr (hin rfl) hcounts (hless rfl) _ _
  | clRep16 => exact advances_execClRep16 (hin rfl) hcounts (hless rfl) hpast _
  | lit => exact advances_execLit (hin rfl) hcounts (hless rfl) hpast _
  | blkHdr | dynHdr => exact .read (hcounts.trans ⟨rfl, rfl, rfl, rfl⟩) (hin rfl) rfl (hless rfl)
  | clLen => exact .read (hcounts.trans ⟨rfl, rfl, rfl, rfl⟩) (hin rfl) (hpast ▸ hin rfl) (hless rfl)
  | eob => exact .read (hcounts.trans ⟨rfl, rfl, rfl, rfl⟩) (hin rfl) (endBlock_inStream _) (hless rfl)
  | start => exact absurd (site_of_tokenSite hi nofun) (nextSite_atPlace hsite).engine

/-- A rejected token fails the load, or without a zlib header the stream goes on at its first block. -/
theorem advances_rejected {s : State} {site : Site} {r : Reject} (hsite : nextSite s = some site)
    (hz : r = .noHeader → site = .zlibHdr) (hstart : r ≠ .noStart) :
    Advances s (rejected site r (enterSite site s)) := by
  have hhost := (enterSite_sameCounts site s).host
  cases r with
  | short | badSymbol => exact .raise hhost
  | noHeader =>
    obtain rfl := hz rfl
    have hseq : s.seq = .zHdr := seq_of_nextSite hsite
    exact advances_streamPart ⟨rfl, rfl, rfl, rfl⟩ hseq .blkHdr rfl rfl (by decide)
  | noStart => exact absurd rfl hstart

/-- Every move of a running sequencer ends the load or goes on to a later part of it. -/
theorem advances_sequence {s : State} (hnone : nextSite s = none) (hidle : s.seq ≠ .idle) :
    Advances s (sequence s) := by
  unfold sequence
  cases hseq : s.seq with
  | chunkHdr =>
    refine .frame rfl (by rw [hseq]; rfl) ?_
    show 3 * (s.nframes - s.frameIdx) + 0 < framesAhead s
    rw [framesAhead, hseq]
    exact Nat.lt_succ_self _
  | palette | tags | skip | blit => exact .endChunk ⟨rfl, rfl, rfl, rfl⟩ (by rw [hseq]; rfl)
  | frameEndCheck =>
    rcases seqFrameEndCheck_cases s with he | he
    · exact .of_eq he (.raise rfl)
    · refine .of_eq he (.frameLoop rfl (by rw [hseq]; decide) fun hlt => .frame rfl (by rw [hseq]; rfl) ?_)
      show 3 * (s.nframes - (s.frameIdx + 1)) + 2 < framesAhead s
      rw [framesAhead, hseq]
      omega
  | fixedSetup =>
    rcases seqFixedSetup_cases s with ⟨c, he⟩ | ⟨lit, dist, -, -, he⟩
    · exact .of_eq he (.raise rfl)
    · exact .of_eq he (advances_streamPart ⟨rfl, rfl, rfl, rfl⟩ hseq .symbols rfl rfl (by decide))
  | dynCl =>
    rcases seqClTable_cases s with ⟨c, he⟩ | ⟨T, -, he⟩
    · exact .of_eq he (.raise rfl)
    · exact .of_eq he (advances_streamPart ⟨rfl, rfl, rfl, rfl⟩ hseq .dynLens rfl rfl (by decide))
  | dynLens =>
    rcases seqBlockTables_cases s with ⟨c, he⟩ | ⟨lit, dist, -, -, he⟩
    · exact .of_eq he (.raise rfl)
    · exact .of_eq he (advances_streamPart ⟨rfl, rfl, rfl, rfl⟩ hseq .symbols rfl rfl (by decide))
  | flip => exact .part rfl (by rw [hseq]; exact Nat.zero_lt_one)
  | done | error => exact Ensures.next ⟨rfl, .inl rfl⟩
  | idle => exact absurd hseq hidle
  | fileHdr | frameHdr | cel | slice | stored | dynHdr | trailer => simp [nextSite, hseq] at hnone
  | zHdr | blkHdr | symbols => cases hphase : s.phase <;> simp [nextSite, hseq, hphase] at hnone

theorem advances_engineStep {s : State} (hidle : s.seq ≠ .idle) : Advances s (engineStep s) := by
  cases hsite : nextSite s with
  | none => rw [engineStep_sequence hsite]; exact advances_sequence hsite hidle
  | some site =>
    rcases engineStep_cases hsite with ⟨i, rest, hd, -, he⟩ | ⟨r, hd, he⟩
    · exact .of_eq he (advances_exec hsite (siteOf_of_decode hd) fun hstream => avail_pastToken_lt hstream hd)
    · refine .of_eq he (advances_rejected hsite (fun hr => decode_noHeader (hr ▸ hd)) ?_)
      have htakes := takes_decode (nextSite_atPlace hsite).engine (siteTable site (enterSite site s))
        (siteBits site (enterSite site s))
      rw [hd] at htakes
      exact htakes

/-! ## The schedule -/

/-- A load has ended, with success or a failure (60_exceptions.md R405, R421). -/
def Ended (s : State) : Prop := s.seq = .idle ∧ (s.status = 2 ∨ s.status = 6)

/-- The engine's step of a running load ends it, or leaves it running with less ahead of it. -/
theorem engineStep_ends_or_advances {s : State} (h : HostForm s) (hb : busy s = true) :
    ∃ t, engineStep s = .next t ∧ t.host = s.host ∧ (Ended t ∨ busy t = true ∧ loadAhead t < loadAhead s) := by
  have hidle : s.seq ≠ .idle := fun hi => by rw [h.idle.1 hi] at hb; cases hb
  have hadvances := advances_engineStep hidle
  have hruns := engineStep_runs ⟨hidle, h.rests⟩
  generalize engineStep s = o at hadvances hruns
  cases hruns with
  | goesOn hsame hne _ =>
    obtain ⟨hhost, hlt⟩ := hadvances.holds _ rfl
    exact ⟨_, rfl, hhost, .inr ⟨(congrArg statusBusy hsame.status).trans hb, hlt.resolve_left hne⟩⟩
  | fails c _ => exact ⟨_, rfl, (hadvances.holds _ rfl).1, .inl ⟨rfl, .inr rfl⟩⟩
  | publishes _ => exact ⟨_, rfl, (hadvances.holds _ rfl).1, .inl ⟨rfl, .inl rfl⟩⟩

/-- What the host may have pending for a load to end: no reset, and nothing that is refused while BUSY = 1. -/
def Harmless (op : HostOp) : Prop := op = .wait ∨ (∃ k, op = .readReg k) ∨ ∃ k v, op = .writeReg k v

/-- While BUSY = 1 a register write reaches CTRL only (10_state.md R38, R42). -/
theorem writeReg_busy (index : Nat) (v : Reg) {s : State} (hb : busy s = true) :
    ∃ ctrl, writeReg index v s = .next { s with ctrl := ctrl } := by
  by_cases h0 : index = 0
  · subst h0; exact ⟨_, writeReg_ctrl_busy v hb⟩
  by_cases h4 : index = 4
  · subst h4; exact ⟨_, writeReg_inLen_busy v hb⟩
  · exact ⟨_, writeReg_other v s h0 h4⟩

/-- A register access of the host leaves a running load as it is. -/
theorem hostAct_harmless {op : HostOp} {s : State} (hop : Harmless op) (hb : busy s = true) :
    ∃ t, hostAct op s = .next t ∧ t.host = s.host ∧ busy t = true ∧ loadAhead t = loadAhead s := by
  rcases hop with rfl | ⟨k, rfl⟩ | ⟨k, v, rfl⟩
  · exact ⟨s, rfl, rfl, hb, rfl⟩
  · exact ⟨_, rfl, rfl, hb, rfl⟩
  · obtain ⟨ctrl, he⟩ := writeReg_busy k v hb
    exact ⟨_, he, rfl, hb, rfl⟩

/-- What is ahead of a load with the host's pending actions. -/
def workAhead (s : State) : (ℕ ×ₗ ℕ ×ₗ ℕ ×ₗ ℕ ×ₗ ℕ) ×ₗ ℕ := toLex (loadAhead s, s.host.length)

theorem workAhead_lt_of_load {s t : State} (h : loadAhead t < loadAhead s) : workAhead t < workAhead s :=
  Prod.Lex.toLex_lt_toLex.2 (.inl h)

theorem workAhead_lt_of_host {s t : State} (h : loadAhead t = loadAhead s) (hhost : t.host.length < s.host.length) :
    workAhead t < workAhead s :=
  Prod.Lex.toLex_lt_toLex.2 (.inr ⟨h, hhost⟩)

/-- A step of a running load ends it, or leaves it running with less ahead of it and no new host action. -/
theorem step_ends_or_advances {s : State} (hops : ∀ op ∈ s.host, Harmless op) (h : HostForm s) (hb : busy s = true) :
    ∃ t, step s = .next t ∧
      (Ended t ∨ busy t = true ∧ (∀ op ∈ t.host, Harmless op) ∧ workAhead t < workAhead s) := by
  cases hhost : s.host with
  | nil =>
    obtain ⟨t, ht, hkeep, hend⟩ := engineStep_ends_or_advances h hb
    refine ⟨t, (step_engine hhost).trans ht, hend.imp_right fun ⟨hbt, hlt⟩ => ⟨hbt, ?_, workAhead_lt_of_load hlt⟩⟩
    rwa [hkeep]
  | cons op rest =>
    have hrest : ∀ op ∈ rest, Harmless op := fun op hop => hops op (hhost ▸ List.mem_cons_of_mem _ hop)
    by_cases hw : op = .wait
    · subst hw
      obtain ⟨t, ht, hkeep, hend⟩ := engineStep_ends_or_advances (s := { s with host := rest }) { h with } hb
      refine ⟨t, (step_wait hhost).trans ht, hend.imp_right fun ⟨hbt, hlt⟩ => ⟨hbt, ?_, workAhead_lt_of_load hlt⟩⟩
      rwa [hkeep]
    · obtain ⟨t, ht, hkeep, hbt, hsame⟩ :=
        hostAct_harmless (s := { s with host := rest }) (hops op (hhost ▸ List.mem_cons_self)) hb
      refine ⟨t, (step_host hhost hw).trans ht, .inr ⟨hbt, ?_, workAhead_lt_of_host hsame ?_⟩⟩
      · rwa [hkeep]
      · rw [hkeep, hhost]
        exact Nat.lt_succ_self _

/-- A load ends, by induction on what is ahead of it. -/
theorem load_ends (s : State) (hops : ∀ op ∈ s.host, Harmless op) (h : HostForm s) (hb : busy s = true) :
    ∃ (k : Nat) (t : State), Sys2Proof.core.run k s = .next t ∧ Ended t := by
  induction hwork : workAhead s using WellFoundedLT.induction generalizing s with
  | ind work ih =>
    subst hwork
    obtain ⟨t, ht, hend | ⟨hbt, hopst, hlt⟩⟩ := step_ends_or_advances hops h hb
    · exact ⟨1, t, run_succ 0 ht, hend⟩
    · obtain ⟨k, u, hu, hend⟩ := ih (workAhead t) hlt t hopst (hostFormKept s t h ht) hbt rfl
      exact ⟨k + 1, u, (run_succ k ht).trans hu, hend⟩

/-- Settles O57: every step of a running load ends it or leaves less ahead of it, in a well-founded order. -/
theorem loadTerminates : Obligations.LoadTerminates := fun s hops h hb => load_ends s hops h hb

end Sys2Proof.Machine
end
